-- ==== Sys2Proof/Word.lean ====
section
/-! DEFINITION. The machine's words: 32-bit registers and addresses (spec 00_scope.md R7, R8), bytes, and the
5-bit register index of an instruction field (10_state.md R50). Bit-field, extension and byte-order helpers are
not here: they stand in Decode.lean and Machine/Operands.lean. -/

namespace Sys2Proof

/-- A 32-bit value: register contents, virtual address, instruction word (R7: XLEN 32). -/
abbrev Word := BitVec 32

/-- The smallest addressable unit (20_memory.md R150). -/
abbrev Byte := BitVec 8

/-- A register number: a 5-bit instruction field, always in range (10_state.md R50). -/
abbrev RegIdx := BitVec 5

end Sys2Proof
end

