-- ==== Sys2Proof/Config.lean ====
section
/-! DEFINITION. What an implementation fixes (spec 00_scope.md R7, 20_memory.md R158) and the free values: answers
of agents outside the block, which are opaque constants without a body (log 5). -/

namespace Sys2Proof

/-- The external devices of 20_memory.md R157 and R158, each named by its row of the table. -/
inductive Device where
  | exp1        -- parallel port, expansion region 1 (R157)
  | memControl1
  | serialPorts -- controller, memory-card and serial ports
  | memControl2
  | dma
  | timers
  | cdrom
  | gpu
  | mdec
  | spu
  | exp2        -- expansion region 2
  deriving DecidableEq, Repr

/-- One range of the I/O window that a device claims, both ends inclusive (20_memory.md R158). -/
structure IoClaim where
  first  : Nat
  last   : Nat
  device : Device
  deriving DecidableEq, Repr

namespace Config

/-- Reset vector, the first byte of the BIOS in KSEG1 (70_reset_and_hazards.md R732). -/
def resetVector : Word := 0xBFC00000#32

/-- SR at reset: BEV = 1, kernel mode, interrupts disabled (70_reset_and_hazards.md R731). -/
def resetSr : Word := 0x00400000#32

/-- PRId at reset (10_state.md R72, 70_reset_and_hazards.md R731). -/
def resetPrId : Word := 0x00000002#32

/-- What the model gives a register whose reset value the spec leaves unspecified (R731). DESIGN CHOICE, unsafe,
log 1. -/
def unspecifiedReset : Word := 0#32

/-- The default table of `IO_CLAIMS` (20_memory.md R158). The rows of the interrupt registers are not in it: they
belong to the block. DESIGN CHOICE, log 4: the machine's claims stand in its state, this is their reset value. -/
def defaultIoClaims : List IoClaim :=
  [⟨0x1F801000, 0x1F801023, .memControl1⟩,
   ⟨0x1F801040, 0x1F80105F, .serialPorts⟩,
   ⟨0x1F801060, 0x1F801063, .memControl2⟩,
   ⟨0x1F801080, 0x1F8010FF, .dma⟩,
   ⟨0x1F801100, 0x1F80112F, .timers⟩,
   ⟨0x1F801800, 0x1F801803, .cdrom⟩,
   ⟨0x1F801810, 0x1F801817, .gpu⟩,
   ⟨0x1F801820, 0x1F801827, .mdec⟩,
   ⟨0x1F801C00, 0x1F801FFF, .spu⟩,
   ⟨0x1F802000, 0x1F802FFF, .exp2⟩]

/-- The answer of an external device to the draw of this number: a free value (20_memory.md R158: "the model takes
the returned bytes as a draw of that device's agent"). DESIGN CHOICE, log 5. -/
opaque deviceAnswer : Nat → Word

/-- The answer of coprocessor 2 to the draw of this number: a free value (44_system_cop.md R570: "a model treats
the results of `cop2_read_*` as inputs from an external agent"). DESIGN CHOICE, log 5. -/
opaque cop2Answer : Nat → Word

end Config

end Sys2Proof
end

