-- ==== Sys2Proof/Syntax.lean ====
section
/-! DEFINITION. The instructions: one constructor for each row of spec/opcode_table.json, its operands in the order
of the assembler form (30_encoding.md R264) and typed by the width of their field (R251 to R254), so that every
value of every field the row has is a term and no other. -/

namespace Sys2Proof

/-- A decoded instruction. `rs`, `rt`, `rd` are register fields, `shamt` the constant shift amount, `imm16`,
`target26`, `code20` and `imm25` the fields of those names (30_encoding.md R254). -/
inductive Instr where
  -- ALU, register forms (40_alu.md)
  | add (rd rs rt : RegIdx)
  | addu (rd rs rt : RegIdx)
  | sub (rd rs rt : RegIdx)
  | subu (rd rs rt : RegIdx)
  | and (rd rs rt : RegIdx)
  | or (rd rs rt : RegIdx)
  | xor (rd rs rt : RegIdx)
  | nor (rd rs rt : RegIdx)
  | slt (rd rs rt : RegIdx)
  | sltu (rd rs rt : RegIdx)
  -- Shifts (40_alu.md)
  | sll (rd rt : RegIdx) (shamt : BitVec 5)
  | srl (rd rt : RegIdx) (shamt : BitVec 5)
  | sra (rd rt : RegIdx) (shamt : BitVec 5)
  | sllv (rd rt rs : RegIdx)
  | srlv (rd rt rs : RegIdx)
  | srav (rd rt rs : RegIdx)
  -- ALU, immediate forms (40_alu.md)
  | addi (rt rs : RegIdx) (imm16 : BitVec 16)
  | addiu (rt rs : RegIdx) (imm16 : BitVec 16)
  | slti (rt rs : RegIdx) (imm16 : BitVec 16)
  | sltiu (rt rs : RegIdx) (imm16 : BitVec 16)
  | andi (rt rs : RegIdx) (imm16 : BitVec 16)
  | ori (rt rs : RegIdx) (imm16 : BitVec 16)
  | xori (rt rs : RegIdx) (imm16 : BitVec 16)
  | lui (rt : RegIdx) (imm16 : BitVec 16)
  -- Multiply, divide, HI and LO (41_muldiv.md)
  | mult (rs rt : RegIdx)
  | multu (rs rt : RegIdx)
  | div (rs rt : RegIdx)
  | divu (rs rt : RegIdx)
  | mfhi (rd : RegIdx)
  | mthi (rs : RegIdx)
  | mflo (rd : RegIdx)
  | mtlo (rs : RegIdx)
  -- Jumps and branches (42_branch.md)
  | j (target26 : BitVec 26)
  | jal (target26 : BitVec 26)
  | jr (rs : RegIdx)
  | jalr (rd rs : RegIdx)
  | beq (rs rt : RegIdx) (imm16 : BitVec 16)
  | bne (rs rt : RegIdx) (imm16 : BitVec 16)
  | blez (rs : RegIdx) (imm16 : BitVec 16)
  | bgtz (rs : RegIdx) (imm16 : BitVec 16)
  | bltz (rs : RegIdx) (imm16 : BitVec 16)
  | bgez (rs : RegIdx) (imm16 : BitVec 16)
  | bltzal (rs : RegIdx) (imm16 : BitVec 16)
  | bgezal (rs : RegIdx) (imm16 : BitVec 16)
  -- Loads and stores (43_loadstore.md)
  | lb (rt rs : RegIdx) (imm16 : BitVec 16)
  | lbu (rt rs : RegIdx) (imm16 : BitVec 16)
  | lh (rt rs : RegIdx) (imm16 : BitVec 16)
  | lhu (rt rs : RegIdx) (imm16 : BitVec 16)
  | lw (rt rs : RegIdx) (imm16 : BitVec 16)
  | lwl (rt rs : RegIdx) (imm16 : BitVec 16)
  | lwr (rt rs : RegIdx) (imm16 : BitVec 16)
  | sb (rt rs : RegIdx) (imm16 : BitVec 16)
  | sh (rt rs : RegIdx) (imm16 : BitVec 16)
  | sw (rt rs : RegIdx) (imm16 : BitVec 16)
  | swl (rt rs : RegIdx) (imm16 : BitVec 16)
  | swr (rt rs : RegIdx) (imm16 : BitVec 16)
  -- System calls and coprocessor 0 (44_system_cop.md)
  | syscall (code20 : BitVec 20)
  | breakpoint (code20 : BitVec 20)
  | mfc0 (rt rd : RegIdx)
  | cfc0 (rt rd : RegIdx)
  | mtc0 (rt rd : RegIdx)
  | ctc0 (rt rd : RegIdx)
  | rfe
  | lwc0 (rt rs : RegIdx) (imm16 : BitVec 16)
  | swc0 (rt rs : RegIdx) (imm16 : BitVec 16)
  -- Coprocessor 2 (44_system_cop.md)
  | mfc2 (rt rd : RegIdx)
  | cfc2 (rt rd : RegIdx)
  | mtc2 (rt rd : RegIdx)
  | ctc2 (rt rd : RegIdx)
  | cop2 (imm25 : BitVec 25)
  | lwc2 (rt rs : RegIdx) (imm16 : BitVec 16)
  | swc2 (rt rs : RegIdx) (imm16 : BitVec 16)
  -- Absent coprocessors (44_system_cop.md R578)
  | cop1
  | cop3
  | lwc1
  | lwc3
  | swc1
  | swc3
  deriving DecidableEq, Repr

end Sys2Proof
end

