-- ==== Sys2Proof/WellFormed.lean ====
section
/-! DEFINITION. What can be ill-formed. Every operand of `Instr` is typed by the width of its field, so no term of
`Instr` is ill-formed; an instruction WORD can be (the reserved encodings of 30_encoding.md R261, written here from
that rule's own list and not from the decoder), and so can a claim of the I/O window (20_memory.md R158, R163). The
canonical form of memory is `Memory.wf` in Machine/Memory.lean. -/

namespace Sys2Proof

/-- The primary opcodes R261 lists as reserved. -/
def reservedPrimary : List Nat :=
  [0x14, 0x15, 0x16, 0x17, 0x18, 0x19, 0x1A, 0x1B, 0x1C, 0x1D, 0x1E, 0x1F, 0x27, 0x2C, 0x2D, 0x2F,
   0x34, 0x35, 0x36, 0x37, 0x3C, 0x3D, 0x3E, 0x3F]

/-- The SPECIAL functs R261 lists as reserved. -/
def reservedSpecial : List Nat :=
  [0x01, 0x05, 0x0A, 0x0B, 0x0E, 0x0F, 0x14, 0x15, 0x16, 0x17, 0x1C, 0x1D, 0x1E, 0x1F, 0x28, 0x29,
   0x2C, 0x2D, 0x2E, 0x2F, 0x30, 0x31, 0x32, 0x33, 0x34, 0x35, 0x36, 0x37,
   0x38, 0x39, 0x3A, 0x3B, 0x3C, 0x3D, 0x3E, 0x3F]

/-- The BCOND `rt` values R261 leaves unreserved. -/
def legalBcond : List Nat := [0x00, 0x01, 0x10, 0x11]

/-- The COP0 and COP2 `cop_rs` values of the four moves (R259); the others below 0x10 are reserved. -/
def legalCopMove : List Nat := [0x00, 0x02, 0x04, 0x06]

/-- A word is reserved exactly when one line of R261 names it. -/
def reservedWord (w : Word) : Bool :=
  let n := w.toNat
  let opcode := n / 2 ^ 26
  let rs := n / 2 ^ 21 % 32
  let rt := n / 2 ^ 16 % 32
  let funct := n % 64
  reservedPrimary.contains opcode
    || (opcode == 0x00 && reservedSpecial.contains funct)
    || (opcode == 0x01 && !legalBcond.contains rt)
    || ((opcode == 0x10 || opcode == 0x12) && decide (rs < 0x10) && !legalCopMove.contains rs)
    || (opcode == 0x10 && decide (0x10 ≤ rs) && funct != 0x10)

/-- An instruction word is well-formed when it is not reserved. -/
def wellFormedWord (w : Word) : Bool := !reservedWord w

/-- A claim is well-formed when it is a non-empty range of whole words (20_memory.md R163: the ranges "all start
and end on 4-byte boundaries") inside the I/O window and clear of the interrupt registers (R158). -/
def IoClaim.wf (c : IoClaim) : Bool :=
  decide (c.first ≤ c.last) && c.first % 4 == 0 && c.last % 4 == 3
    && decide (0x1F801000 ≤ c.first) && decide (c.last ≤ 0x1F802FFF)
    && (decide (c.last < 0x1F801070) || decide (0x1F801077 < c.first))

end Sys2Proof
end

