-- ==== Sys2Proof/Decode.lean ====
section
/-! DEFINITION. The decoder, total on every word and on every list of bytes, and after it the encoder, both written
from the encoding tables of 30_encoding.md. -/

namespace Sys2Proof

/-! ## Fields (30_encoding.md R251 to R254) -/

/-- `w[31:26]`. -/
def opcodeOf (w : Word) : BitVec 6 := w.extractLsb' 26 6
/-- `w[25:21]`, also the coprocessor sub-opcode `cop_rs`. -/
def rsOf (w : Word) : BitVec 5 := w.extractLsb' 21 5
/-- `w[20:16]`. -/
def rtOf (w : Word) : BitVec 5 := w.extractLsb' 16 5
/-- `w[15:11]`. -/
def rdOf (w : Word) : BitVec 5 := w.extractLsb' 11 5
/-- `w[10:6]`. -/
def shamtOf (w : Word) : BitVec 5 := w.extractLsb' 6 5
/-- `w[5:0]`. -/
def functOf (w : Word) : BitVec 6 := w.extractLsb' 0 6
/-- `w[15:0]`. -/
def imm16Of (w : Word) : BitVec 16 := w.extractLsb' 0 16
/-- `w[25:0]`. -/
def target26Of (w : Word) : BitVec 26 := w.extractLsb' 0 26
/-- `w[25:6]`, ignored by the hardware (R260). -/
def code20Of (w : Word) : BitVec 20 := w.extractLsb' 6 20
/-- `w[25]`, the coprocessor-operation bit. -/
def coOf (w : Word) : Bool := w.getLsbD 25
/-- `w[24:0]`, the coprocessor-2 command. -/
def imm25Of (w : Word) : BitVec 25 := w.extractLsb' 0 25

/-! ## Decoding (R256 to R261) -/

/-- Why a word is reserved, with the value that no table lists (R261). A reserved word is no refusal of the model:
the machine raises RI, after the coprocessor-usable check for the COP0 and COP2 forms (44_system_cop.md R579,
R580). -/
inductive Reserved where
  | primary (opcode : BitVec 6)
  | special (funct : BitVec 6)
  | bcond (rt : BitVec 5)
  | cop0Move (copRs : BitVec 5)
  | cop0Operation (funct : BitVec 6)
  | cop2Move (copRs : BitVec 5)
  deriving DecidableEq, Repr

/-- What a word decodes to. -/
inductive Decoded where
  | instr (i : Instr)
  | reserved (why : Reserved)
  deriving DecidableEq, Repr

/-- The SPECIAL table, by `funct` (R257). -/
def decodeSpecial (w : Word) : Decoded :=
  match functOf w with
  | 0x00#6 => .instr (.sll (rdOf w) (rtOf w) (shamtOf w))
  | 0x02#6 => .instr (.srl (rdOf w) (rtOf w) (shamtOf w))
  | 0x03#6 => .instr (.sra (rdOf w) (rtOf w) (shamtOf w))
  | 0x04#6 => .instr (.sllv (rdOf w) (rtOf w) (rsOf w))
  | 0x06#6 => .instr (.srlv (rdOf w) (rtOf w) (rsOf w))
  | 0x07#6 => .instr (.srav (rdOf w) (rtOf w) (rsOf w))
  | 0x08#6 => .instr (.jr (rsOf w))
  | 0x09#6 => .instr (.jalr (rdOf w) (rsOf w))
  | 0x0C#6 => .instr (.syscall (code20Of w))
  | 0x0D#6 => .instr (.breakpoint (code20Of w))
  | 0x10#6 => .instr (.mfhi (rdOf w))
  | 0x11#6 => .instr (.mthi (rsOf w))
  | 0x12#6 => .instr (.mflo (rdOf w))
  | 0x13#6 => .instr (.mtlo (rsOf w))
  | 0x18#6 => .instr (.mult (rsOf w) (rtOf w))
  | 0x19#6 => .instr (.multu (rsOf w) (rtOf w))
  | 0x1A#6 => .instr (.div (rsOf w) (rtOf w))
  | 0x1B#6 => .instr (.divu (rsOf w) (rtOf w))
  | 0x20#6 => .instr (.add (rdOf w) (rsOf w) (rtOf w))
  | 0x21#6 => .instr (.addu (rdOf w) (rsOf w) (rtOf w))
  | 0x22#6 => .instr (.sub (rdOf w) (rsOf w) (rtOf w))
  | 0x23#6 => .instr (.subu (rdOf w) (rsOf w) (rtOf w))
  | 0x24#6 => .instr (.and (rdOf w) (rsOf w) (rtOf w))
  | 0x25#6 => .instr (.or (rdOf w) (rsOf w) (rtOf w))
  | 0x26#6 => .instr (.xor (rdOf w) (rsOf w) (rtOf w))
  | 0x27#6 => .instr (.nor (rdOf w) (rsOf w) (rtOf w))
  | 0x2A#6 => .instr (.slt (rdOf w) (rsOf w) (rtOf w))
  | 0x2B#6 => .instr (.sltu (rdOf w) (rsOf w) (rtOf w))
  | f => .reserved (.special f)

/-- The BCOND table, by `rt` (R258). -/
def decodeBcond (w : Word) : Decoded :=
  match rtOf w with
  | 0x00#5 => .instr (.bltz (rsOf w) (imm16Of w))
  | 0x01#5 => .instr (.bgez (rsOf w) (imm16Of w))
  | 0x10#5 => .instr (.bltzal (rsOf w) (imm16Of w))
  | 0x11#5 => .instr (.bgezal (rsOf w) (imm16Of w))
  | r => .reserved (.bcond r)

/-- The COP0 table (R259): an operation when `co` is 1, else by `cop_rs`. -/
def decodeCop0 (w : Word) : Decoded :=
  if coOf w then
    if functOf w = 0x10#6 then .instr .rfe else .reserved (.cop0Operation (functOf w))
  else
    match rsOf w with
    | 0x00#5 => .instr (.mfc0 (rtOf w) (rdOf w))
    | 0x02#5 => .instr (.cfc0 (rtOf w) (rdOf w))
    | 0x04#5 => .instr (.mtc0 (rtOf w) (rdOf w))
    | 0x06#5 => .instr (.ctc0 (rtOf w) (rdOf w))
    | r => .reserved (.cop0Move r)

/-- The COP2 table (R259): a command when `co` is 1, else by `cop_rs`. -/
def decodeCop2 (w : Word) : Decoded :=
  if coOf w then .instr (.cop2 (imm25Of w))
  else
    match rsOf w with
    | 0x00#5 => .instr (.mfc2 (rtOf w) (rdOf w))
    | 0x02#5 => .instr (.cfc2 (rtOf w) (rdOf w))
    | 0x04#5 => .instr (.mtc2 (rtOf w) (rdOf w))
    | 0x06#5 => .instr (.ctc2 (rtOf w) (rdOf w))
    | r => .reserved (.cop2Move r)

/-- The primary table, by `opcode` (R256). -/
def decode (w : Word) : Decoded :=
  match opcodeOf w with
  | 0x00#6 => decodeSpecial w
  | 0x01#6 => decodeBcond w
  | 0x02#6 => .instr (.j (target26Of w))
  | 0x03#6 => .instr (.jal (target26Of w))
  | 0x04#6 => .instr (.beq (rsOf w) (rtOf w) (imm16Of w))
  | 0x05#6 => .instr (.bne (rsOf w) (rtOf w) (imm16Of w))
  | 0x06#6 => .instr (.blez (rsOf w) (imm16Of w))
  | 0x07#6 => .instr (.bgtz (rsOf w) (imm16Of w))
  | 0x08#6 => .instr (.addi (rtOf w) (rsOf w) (imm16Of w))
  | 0x09#6 => .instr (.addiu (rtOf w) (rsOf w) (imm16Of w))
  | 0x0A#6 => .instr (.slti (rtOf w) (rsOf w) (imm16Of w))
  | 0x0B#6 => .instr (.sltiu (rtOf w) (rsOf w) (imm16Of w))
  | 0x0C#6 => .instr (.andi (rtOf w) (rsOf w) (imm16Of w))
  | 0x0D#6 => .instr (.ori (rtOf w) (rsOf w) (imm16Of w))
  | 0x0E#6 => .instr (.xori (rtOf w) (rsOf w) (imm16Of w))
  | 0x0F#6 => .instr (.lui (rtOf w) (imm16Of w))
  | 0x10#6 => decodeCop0 w
  | 0x11#6 => .instr .cop1
  | 0x12#6 => decodeCop2 w
  | 0x13#6 => .instr .cop3
  | 0x20#6 => .instr (.lb (rtOf w) (rsOf w) (imm16Of w))
  | 0x21#6 => .instr (.lh (rtOf w) (rsOf w) (imm16Of w))
  | 0x22#6 => .instr (.lwl (rtOf w) (rsOf w) (imm16Of w))
  | 0x23#6 => .instr (.lw (rtOf w) (rsOf w) (imm16Of w))
  | 0x24#6 => .instr (.lbu (rtOf w) (rsOf w) (imm16Of w))
  | 0x25#6 => .instr (.lhu (rtOf w) (rsOf w) (imm16Of w))
  | 0x26#6 => .instr (.lwr (rtOf w) (rsOf w) (imm16Of w))
  | 0x28#6 => .instr (.sb (rtOf w) (rsOf w) (imm16Of w))
  | 0x29#6 => .instr (.sh (rtOf w) (rsOf w) (imm16Of w))
  | 0x2A#6 => .instr (.swl (rtOf w) (rsOf w) (imm16Of w))
  | 0x2B#6 => .instr (.sw (rtOf w) (rsOf w) (imm16Of w))
  | 0x2E#6 => .instr (.swr (rtOf w) (rsOf w) (imm16Of w))
  | 0x30#6 => .instr (.lwc0 (rtOf w) (rsOf w) (imm16Of w))
  | 0x31#6 => .instr .lwc1
  | 0x32#6 => .instr (.lwc2 (rtOf w) (rsOf w) (imm16Of w))
  | 0x33#6 => .instr .lwc3
  | 0x38#6 => .instr (.swc0 (rtOf w) (rsOf w) (imm16Of w))
  | 0x39#6 => .instr .swc1
  | 0x3A#6 => .instr (.swc2 (rtOf w) (rsOf w) (imm16Of w))
  | 0x3B#6 => .instr .swc3
  | op => .reserved (.primary op)

/-- A word from its four bytes, the first the least significant (20_memory.md R163). -/
def wordOfBytes (b0 b1 b2 b3 : Byte) : Word := b3 ++ b2 ++ b1 ++ b0

/-- Why a list of bytes gives no instruction. -/
inductive DecodeError where
  | truncated               -- fewer than four bytes: every instruction is one 32-bit word (R250)
  | reserved (why : Reserved)
  deriving DecidableEq, Repr

/-- Decode the first four bytes and give the rest back (R250, 20_memory.md R163). -/
def decodeBytes : List Byte → Except DecodeError (Instr × List Byte)
  | b0 :: b1 :: b2 :: b3 :: rest =>
    match decode (wordOfBytes b0 b1 b2 b3) with
    | .instr i => .ok (i, rest)
    | .reserved r => .error (.reserved r)
  | _ => .error .truncated

/-- The instruction the decoder reads from the word `w`, its `nbits` bits laid out as the hardware stores them. Every
row of the table has 32 bits. -/
def decodeTableWord (nbits w : Nat) : Option Instr :=
  let v : Word := BitVec.ofNat 32 (w % 2 ^ nbits)
  match decodeBytes [v.extractLsb' 0 8, v.extractLsb' 8 8, v.extractLsb' 16 8, v.extractLsb' 24 8] with
  | .ok (i, _) => some i
  | .error _ => none

/-! ## Encoding -/

/-- Register form (R251). -/
def rWord (opcode : BitVec 6) (rs rt rd shamt : BitVec 5) (funct : BitVec 6) : Word :=
  opcode ++ rs ++ rt ++ rd ++ shamt ++ funct

/-- Immediate form (R252). -/
def iWord (opcode : BitVec 6) (rs rt : BitVec 5) (imm16 : BitVec 16) : Word :=
  opcode ++ rs ++ rt ++ imm16

/-- Jump form (R253). -/
def jWord (opcode : BitVec 6) (target26 : BitVec 26) : Word := opcode ++ target26

/-- SPECIAL with `code20` in bits 25:6 (R254). -/
def codeWord (code20 : BitVec 20) (funct : BitVec 6) : Word := (0x00#6) ++ code20 ++ funct

/-- A coprocessor operation: `co` = 1 and `imm25` (R254). -/
def copWord (opcode : BitVec 6) (imm25 : BitVec 25) : Word := opcode ++ (1#1) ++ imm25

/-- The word of an instruction, every ignored bit (R260) zero. -/
def encode : Instr → Word
  | .add rd rs rt => rWord 0x00#6 rs rt rd 0#5 0x20#6
  | .addu rd rs rt => rWord 0x00#6 rs rt rd 0#5 0x21#6
  | .sub rd rs rt => rWord 0x00#6 rs rt rd 0#5 0x22#6
  | .subu rd rs rt => rWord 0x00#6 rs rt rd 0#5 0x23#6
  | .and rd rs rt => rWord 0x00#6 rs rt rd 0#5 0x24#6
  | .or rd rs rt => rWord 0x00#6 rs rt rd 0#5 0x25#6
  | .xor rd rs rt => rWord 0x00#6 rs rt rd 0#5 0x26#6
  | .nor rd rs rt => rWord 0x00#6 rs rt rd 0#5 0x27#6
  | .slt rd rs rt => rWord 0x00#6 rs rt rd 0#5 0x2A#6
  | .sltu rd rs rt => rWord 0x00#6 rs rt rd 0#5 0x2B#6
  | .sll rd rt shamt => rWord 0x00#6 0#5 rt rd shamt 0x00#6
  | .srl rd rt shamt => rWord 0x00#6 0#5 rt rd shamt 0x02#6
  | .sra rd rt shamt => rWord 0x00#6 0#5 rt rd shamt 0x03#6
  | .sllv rd rt rs => rWord 0x00#6 rs rt rd 0#5 0x04#6
  | .srlv rd rt rs => rWord 0x00#6 rs rt rd 0#5 0x06#6
  | .srav rd rt rs => rWord 0x00#6 rs rt rd 0#5 0x07#6
  | .addi rt rs imm16 => iWord 0x08#6 rs rt imm16
  | .addiu rt rs imm16 => iWord 0x09#6 rs rt imm16
  | .slti rt rs imm16 => iWord 0x0A#6 rs rt imm16
  | .sltiu rt rs imm16 => iWord 0x0B#6 rs rt imm16
  | .andi rt rs imm16 => iWord 0x0C#6 rs rt imm16
  | .ori rt rs imm16 => iWord 0x0D#6 rs rt imm16
  | .xori rt rs imm16 => iWord 0x0E#6 rs rt imm16
  | .lui rt imm16 => iWord 0x0F#6 0#5 rt imm16
  | .mult rs rt => rWord 0x00#6 rs rt 0#5 0#5 0x18#6
  | .multu rs rt => rWord 0x00#6 rs rt 0#5 0#5 0x19#6
  | .div rs rt => rWord 0x00#6 rs rt 0#5 0#5 0x1A#6
  | .divu rs rt => rWord 0x00#6 rs rt 0#5 0#5 0x1B#6
  | .mfhi rd => rWord 0x00#6 0#5 0#5 rd 0#5 0x10#6
  | .mthi rs => rWord 0x00#6 rs 0#5 0#5 0#5 0x11#6
  | .mflo rd => rWord 0x00#6 0#5 0#5 rd 0#5 0x12#6
  | .mtlo rs => rWord 0x00#6 rs 0#5 0#5 0#5 0x13#6
  | .j target26 => jWord 0x02#6 target26
  | .jal target26 => jWord 0x03#6 target26
  | .jr rs => rWord 0x00#6 rs 0#5 0#5 0#5 0x08#6
  | .jalr rd rs => rWord 0x00#6 rs 0#5 rd 0#5 0x09#6
  | .beq rs rt imm16 => iWord 0x04#6 rs rt imm16
  | .bne rs rt imm16 => iWord 0x05#6 rs rt imm16
  | .blez rs imm16 => iWord 0x06#6 rs 0#5 imm16
  | .bgtz rs imm16 => iWord 0x07#6 rs 0#5 imm16
  | .bltz rs imm16 => iWord 0x01#6 rs 0x00#5 imm16
  | .bgez rs imm16 => iWord 0x01#6 rs 0x01#5 imm16
  | .bltzal rs imm16 => iWord 0x01#6 rs 0x10#5 imm16
  | .bgezal rs imm16 => iWord 0x01#6 rs 0x11#5 imm16
  | .lb rt rs imm16 => iWord 0x20#6 rs rt imm16
  | .lbu rt rs imm16 => iWord 0x24#6 rs rt imm16
  | .lh rt rs imm16 => iWord 0x21#6 rs rt imm16
  | .lhu rt rs imm16 => iWord 0x25#6 rs rt imm16
  | .lw rt rs imm16 => iWord 0x23#6 rs rt imm16
  | .lwl rt rs imm16 => iWord 0x22#6 rs rt imm16
  | .lwr rt rs imm16 => iWord 0x26#6 rs rt imm16
  | .sb rt rs imm16 => iWord 0x28#6 rs rt imm16
  | .sh rt rs imm16 => iWord 0x29#6 rs rt imm16
  | .sw rt rs imm16 => iWord 0x2B#6 rs rt imm16
  | .swl rt rs imm16 => iWord 0x2A#6 rs rt imm16
  | .swr rt rs imm16 => iWord 0x2E#6 rs rt imm16
  | .syscall code20 => codeWord code20 0x0C#6
  | .breakpoint code20 => codeWord code20 0x0D#6
  | .mfc0 rt rd => rWord 0x10#6 0x00#5 rt rd 0#5 0#6
  | .cfc0 rt rd => rWord 0x10#6 0x02#5 rt rd 0#5 0#6
  | .mtc0 rt rd => rWord 0x10#6 0x04#5 rt rd 0#5 0#6
  | .ctc0 rt rd => rWord 0x10#6 0x06#5 rt rd 0#5 0#6
  | .rfe => rWord 0x10#6 0x10#5 0#5 0#5 0#5 0x10#6
  | .lwc0 rt rs imm16 => iWord 0x30#6 rs rt imm16
  | .swc0 rt rs imm16 => iWord 0x38#6 rs rt imm16
  | .mfc2 rt rd => rWord 0x12#6 0x00#5 rt rd 0#5 0#6
  | .cfc2 rt rd => rWord 0x12#6 0x02#5 rt rd 0#5 0#6
  | .mtc2 rt rd => rWord 0x12#6 0x04#5 rt rd 0#5 0#6
  | .ctc2 rt rd => rWord 0x12#6 0x06#5 rt rd 0#5 0#6
  | .cop2 imm25 => copWord 0x12#6 imm25
  | .lwc2 rt rs imm16 => iWord 0x32#6 rs rt imm16
  | .swc2 rt rs imm16 => iWord 0x3A#6 rs rt imm16
  | .cop1 => jWord 0x11#6 0#26
  | .cop3 => jWord 0x13#6 0#26
  | .lwc1 => jWord 0x31#6 0#26
  | .lwc3 => jWord 0x33#6 0#26
  | .swc1 => jWord 0x39#6 0#26
  | .swc3 => jWord 0x3B#6 0#26

/-- The bits of its word that an instruction has for itself: those that select its row and those of its operands.
The other bits are ignored by the decoder (R260). -/
def usedBits : Instr → Word
  | .add _ _ _ => 0xFFFFF83F#32
  | .addu _ _ _ => 0xFFFFF83F#32
  | .sub _ _ _ => 0xFFFFF83F#32
  | .subu _ _ _ => 0xFFFFF83F#32
  | .and _ _ _ => 0xFFFFF83F#32
  | .or _ _ _ => 0xFFFFF83F#32
  | .xor _ _ _ => 0xFFFFF83F#32
  | .nor _ _ _ => 0xFFFFF83F#32
  | .slt _ _ _ => 0xFFFFF83F#32
  | .sltu _ _ _ => 0xFFFFF83F#32
  | .sll _ _ _ => 0xFC1FFFFF#32
  | .srl _ _ _ => 0xFC1FFFFF#32
  | .sra _ _ _ => 0xFC1FFFFF#32
  | .sllv _ _ _ => 0xFFFFF83F#32
  | .srlv _ _ _ => 0xFFFFF83F#32
  | .srav _ _ _ => 0xFFFFF83F#32
  | .addi _ _ _ => 0xFFFFFFFF#32
  | .addiu _ _ _ => 0xFFFFFFFF#32
  | .slti _ _ _ => 0xFFFFFFFF#32
  | .sltiu _ _ _ => 0xFFFFFFFF#32
  | .andi _ _ _ => 0xFFFFFFFF#32
  | .ori _ _ _ => 0xFFFFFFFF#32
  | .xori _ _ _ => 0xFFFFFFFF#32
  | .lui _ _ => 0xFC1FFFFF#32
  | .mult _ _ => 0xFFFF003F#32
  | .multu _ _ => 0xFFFF003F#32
  | .div _ _ => 0xFFFF003F#32
  | .divu _ _ => 0xFFFF003F#32
  | .mfhi _ => 0xFC00F83F#32
  | .mthi _ => 0xFFE0003F#32
  | .mflo _ => 0xFC00F83F#32
  | .mtlo _ => 0xFFE0003F#32
  | .j _ => 0xFFFFFFFF#32
  | .jal _ => 0xFFFFFFFF#32
  | .jr _ => 0xFFE0003F#32
  | .jalr _ _ => 0xFFE0F83F#32
  | .beq _ _ _ => 0xFFFFFFFF#32
  | .bne _ _ _ => 0xFFFFFFFF#32
  | .blez _ _ => 0xFFE0FFFF#32
  | .bgtz _ _ => 0xFFE0FFFF#32
  | .bltz _ _ => 0xFFFFFFFF#32
  | .bgez _ _ => 0xFFFFFFFF#32
  | .bltzal _ _ => 0xFFFFFFFF#32
  | .bgezal _ _ => 0xFFFFFFFF#32
  | .lb _ _ _ => 0xFFFFFFFF#32
  | .lbu _ _ _ => 0xFFFFFFFF#32
  | .lh _ _ _ => 0xFFFFFFFF#32
  | .lhu _ _ _ => 0xFFFFFFFF#32
  | .lw _ _ _ => 0xFFFFFFFF#32
  | .lwl _ _ _ => 0xFFFFFFFF#32
  | .lwr _ _ _ => 0xFFFFFFFF#32
  | .sb _ _ _ => 0xFFFFFFFF#32
  | .sh _ _ _ => 0xFFFFFFFF#32
  | .sw _ _ _ => 0xFFFFFFFF#32
  | .swl _ _ _ => 0xFFFFFFFF#32
  | .swr _ _ _ => 0xFFFFFFFF#32
  | .syscall _ => 0xFFFFFFFF#32
  | .breakpoint _ => 0xFFFFFFFF#32
  | .mfc0 _ _ => 0xFFFFF800#32
  | .cfc0 _ _ => 0xFFFFF800#32
  | .mtc0 _ _ => 0xFFFFF800#32
  | .ctc0 _ _ => 0xFFFFF800#32
  | .rfe => 0xFE00003F#32
  | .lwc0 _ _ _ => 0xFFFFFFFF#32
  | .swc0 _ _ _ => 0xFFFFFFFF#32
  | .mfc2 _ _ => 0xFFFFF800#32
  | .cfc2 _ _ => 0xFFFFF800#32
  | .mtc2 _ _ => 0xFFFFF800#32
  | .ctc2 _ _ => 0xFFFFF800#32
  | .cop2 _ => 0xFFFFFFFF#32
  | .lwc2 _ _ _ => 0xFFFFFFFF#32
  | .swc2 _ _ _ => 0xFFFFFFFF#32
  | .cop1 => 0xFC000000#32
  | .cop3 => 0xFC000000#32
  | .lwc1 => 0xFC000000#32
  | .lwc3 => 0xFC000000#32
  | .swc1 => 0xFC000000#32
  | .swc3 => 0xFC000000#32

end Sys2Proof
end

