-- ==== Sys2Proof/Machine/Flags.lean ====
section
/-! DEFINITION. The core has no flags (spec 10_state.md R66). What stands here in their place: signed overflow, which
traps (40_alu.md R301), and the bits of SR and Cause (10_state.md R68, R69) with the mode stack, the interrupt sample
and the enable condition (60_exceptions.md R633, R647, R655). Pure functions of words. -/

namespace Sys2Proof.Machine

/-! ## Overflow (40_alu.md R301) -/

/-- `(a[31] == b[31]) and (r[31] != a[31])` for `r = a + b`. -/
def overflowAdd (a b : Word) : Bool := a.msb == b.msb && (a + b).msb != a.msb
/-- `(a[31] != b[31]) and (r[31] != a[31])` for `r = a - b`. -/
def overflowSub (a b : Word) : Bool := a.msb != b.msb && (a - b).msb != a.msb

/-! ## Bit fields -/

/-- The bits `lo .. lo + n - 1`. -/
def fieldMask (lo n : Nat) : Word := (BitVec.allOnes n).setWidth 32 <<< lo

/-- `w` with the field of `v`'s width at bit `lo` replaced by `v`. -/
def setField {n : Nat} (w : Word) (lo : Nat) (v : BitVec n) : Word :=
  (w &&& ~~~ fieldMask lo n) ||| (v.setWidth 32 <<< lo)

/-! ## SR (10_state.md R68) -/

/-- IEc, interrupt enable, current. -/
def srIEc (sr : Word) : Bool := sr.getLsbD 0
/-- KUc: user mode when 1 (60_exceptions.md R665). -/
def srKUc (sr : Word) : Bool := sr.getLsbD 1
/-- IsC, isolate cache. -/
def srIsC (sr : Word) : Bool := sr.getLsbD 16
/-- BEV, boot exception vectors. -/
def srBev (sr : Word) : Bool := sr.getLsbD 22
/-- CU0, coprocessor 0 usable in user mode. -/
def srCu0 (sr : Word) : Bool := sr.getLsbD 28
/-- CU2, coprocessor 2 usable. -/
def srCu2 (sr : Word) : Bool := sr.getLsbD 30

/-- Exception entry: `SR[5:0] <- (SR[3:0] << 2) & 0x3F` (60_exceptions.md R655). -/
def pushModeStack (sr : Word) : Word := setField sr 0 (sr.extractLsb' 0 4 ++ 0#2)
/-- RFE: `SR[3:0] <- SR[5:2]`, SR[5:4] unchanged (44_system_cop.md R567). -/
def popModeStack (sr : Word) : Word := setField sr 0 (sr.extractLsb' 2 4)

/-! ## Cause (10_state.md R69) -/

/-- Cause on exception entry: BD, ExcCode, and CE where the exception gives one; every other bit kept
(60_exceptions.md R655). -/
def causeOnEntry (cause : Word) (bd : Bool) (code : BitVec 5) (ce : Option (BitVec 2)) : Word :=
  let c := setField (setField cause 31 (BitVec.ofBool bd)) 2 code
  match ce with
  | some n => setField c 28 n
  | none => c

/-- Interrupt sample: `Cause[10] <- request` (60_exceptions.md R633). -/
def sampleCause (cause : Word) (request : Bool) : Word := setField cause 10 (BitVec.ofBool request)

/-- `(I_STAT & I_MASK) != 0` (10_state.md R76). -/
def interruptRequest (iStat iMask : BitVec 11) : Bool := (iStat &&& iMask) != 0#11

/-- `SR.IEc == 1 and (Cause[15:8] & SR[15:8]) != 0` (60_exceptions.md R647). -/
def interruptEnabled (sr cause : Word) : Bool :=
  srIEc sr && (cause.extractLsb' 8 8 &&& sr.extractLsb' 8 8) != 0#8

end Sys2Proof.Machine
end

