-- ==== Sys2Proof/Machine/Operands.lean ====
section
/-! DEFINITION. Operand assembly: extensions, addresses, jump and branch targets, shifts, the byte merges of LWL, LWR,
SWL and SWR, products and quotients (spec 30_encoding.md R255 and the instruction files). Pure functions of words. -/

namespace Sys2Proof.Machine

/-! ## Extensions (00_scope.md R8, 30_encoding.md R255) -/

/-- `sext_16`. -/
def sext16 (v : BitVec 16) : Word := v.signExtend 32
/-- `zext_16`. -/
def zext16 (v : BitVec 16) : Word := v.setWidth 32
/-- `sext_8(v[7:0])` (43_loadstore.md R503). -/
def sextLow8 (v : Word) : Word := (v.extractLsb' 0 8).signExtend 32
/-- `zext_8(v[7:0])` (43_loadstore.md R504). -/
def zextLow8 (v : Word) : Word := (v.extractLsb' 0 8).setWidth 32
/-- `sext_16(v[15:0])` (43_loadstore.md R505). -/
def sextLow16 (v : Word) : Word := (v.extractLsb' 0 16).signExtend 32
/-- `zext_16(v[15:0])` (43_loadstore.md R506). -/
def zextLow16 (v : Word) : Word := (v.extractLsb' 0 16).setWidth 32
/-- `imm16 << 16` (40_alu.md R325). -/
def upperImmediate (imm16 : BitVec 16) : Word := zext16 imm16 <<< 16
/-- A comparison's result, 1 or 0 (40_alu.md R300). -/
def boolWord (b : Bool) : Word := if b then 1#32 else 0#32

/-! ## Addresses and targets -/

/-- `x[rs] + sext_16(imm16)`, mod 2^32 (43_loadstore.md R500). -/
def effectiveAddress (base : Word) (imm16 : BitVec 16) : Word := base + sext16 imm16
/-- The aligned word that holds an address: `ea & 0xFFFFFFFC` (43_loadstore.md R508). -/
def alignedWord (ea : Word) : Word := ea &&& 0xFFFFFFFC#32
/-- `ea[1:0]` as a number (43_loadstore.md R508). -/
def byteOffset (ea : Word) : Nat := ea.toNat % 4
/-- `np + (sext_16(imm16) << 2) - 4` (42_branch.md R451). -/
def branchTarget (np : Word) (imm16 : BitVec 16) : Word := np + (sext16 imm16 <<< 2) - 4#32
/-- `(np & 0xF0000000) | (target26 << 2)` (42_branch.md R451). -/
def jumpTarget (np : Word) (target26 : BitVec 26) : Word :=
  (np &&& 0xF0000000#32) ||| (target26.setWidth 32 <<< 2)

/-! ## Shifts (40_alu.md R312 to R317) -/

/-- `x[rs][4:0]`, so that no shift by 32 or more exists (R315). -/
def shiftAmount (v : Word) : BitVec 5 := v.extractLsb' 0 5
/-- `v << n`. -/
def shiftLeft (v : Word) (n : BitVec 5) : Word := v <<< n.toNat
/-- `v >>u n`. -/
def shiftRightLogical (v : Word) (n : BitVec 5) : Word := v >>> n.toNat
/-- `v >>s n`. -/
def shiftRightArith (v : Word) (n : BitVec 5) : Word := v.sshiftRight n.toNat

/-! ## Unaligned words, little-endian -/

/-- The LWL table (43_loadstore.md R508): `cur` is the old register, `w` the aligned word, `k` the byte offset. -/
def lwlMerge (k : Nat) (cur w : Word) : Word :=
  match k with
  | 0 => (cur &&& 0x00FFFFFF#32) ||| (w <<< 24)
  | 1 => (cur &&& 0x0000FFFF#32) ||| (w <<< 16)
  | 2 => (cur &&& 0x000000FF#32) ||| (w <<< 8)
  | _ => w

/-- The LWR table (43_loadstore.md R509). -/
def lwrMerge (k : Nat) (cur w : Word) : Word :=
  match k with
  | 0 => w
  | 1 => (cur &&& 0xFF000000#32) ||| (w >>> 8)
  | 2 => (cur &&& 0xFFFF0000#32) ||| (w >>> 16)
  | _ => (cur &&& 0xFFFFFF00#32) ||| (w >>> 24)

/-- The byte writes of SWL in order: for `j` in 0..k, the low byte of `v >> (8 * (3 - k + j))` to `a + j`
(43_loadstore.md R513). -/
def swlBytes (ea v : Word) : List (Word × Byte) :=
  let k := byteOffset ea
  (List.range (k + 1)).map fun j =>
    (alignedWord ea + BitVec.ofNat 32 j, (v >>> (8 * (3 - k + j))).setWidth 8)

/-- The byte writes of SWR in order: for `j` in k..3, the low byte of `v >> (8 * (j - k))` to `a + j`
(43_loadstore.md R514). -/
def swrBytes (ea v : Word) : List (Word × Byte) :=
  let k := byteOffset ea
  (List.range (4 - k)).map fun i =>
    (alignedWord ea + BitVec.ofNat 32 (k + i), (v >>> (8 * i)).setWidth 8)

/-! ## Products and quotients (41_muldiv.md) -/

/-- The exact 64-bit signed product (R401). -/
def signedProduct (a b : Word) : BitVec 64 := BitVec.ofInt 64 (a.toInt * b.toInt)
/-- The exact 64-bit unsigned product (R402). -/
def unsignedProduct (a b : Word) : BitVec 64 := BitVec.ofNat 64 (a.toNat * b.toNat)

/-- HI and LO after DIV (R403). -/
def signedDivide (n d : Word) : Word × Word :=
  if d = 0#32 then (n, if 0 ≤ n.toInt then 0xFFFFFFFF#32 else 0x00000001#32)
  else if n = 0x80000000#32 ∧ d = 0xFFFFFFFF#32 then (0x00000000#32, 0x80000000#32)
  else
    let q := n.toInt.tdiv d.toInt
    (BitVec.ofInt 32 (n.toInt - d.toInt * q), BitVec.ofInt 32 q)

/-- HI and LO after DIVU (R404). -/
def unsignedDivide (n d : Word) : Word × Word :=
  if d = 0#32 then (n, 0xFFFFFFFF#32)
  else (BitVec.ofNat 32 (n.toNat % d.toNat), BitVec.ofNat 32 (n.toNat / d.toNat))

end Sys2Proof.Machine
end

