-- ==== Sys2Proof/Machine/Memory.lean ====
section
/-! DEFINITION. The storage of the block (spec 10_state.md R77): RAM, scratchpad, BIOS and the cache-control window as
ONE list of cells in one canonical form. A cell's key is its storage location: the RAM offset `p mod 0x200000`, the
physical offset of a scratchpad or BIOS byte, the virtual address of a cache-control byte (20_memory.md R153 to R156,
R161); no two of these ranges meet. -/

namespace Sys2Proof.Machine

/-- Stored bytes, by location. -/
abbrev Memory := List Host.Cell

/-- What a byte that nothing has written reads as. The cache-control window is zero at reset (70_reset_and_hazards.md
R731); RAM_INIT, SCRATCH_INIT and BIOS_IMAGE are OPEN in the spec, and zero for them is a DESIGN CHOICE, unsafe,
log 2. -/
def unlistedByte (_loc : Nat) : Byte := 0#8

namespace Memory

/-- The canonical form: locations strictly rise and no cell holds what an unlisted location reads as. -/
abbrev wf (m : Memory) : Prop :=
  m.Pairwise (fun c d => c.1 < d.1) ∧ ∀ c ∈ m, c.2 ≠ unlistedByte c.1

/-- The byte at a location. -/
def read : Memory → Nat → Byte
  | [], loc => unlistedByte loc
  | (l, b) :: rest, loc => if loc = l then b else read rest loc

/-- A cell in front of a list, or nothing where the byte is what an unlisted location reads as. -/
def consCell (loc : Nat) (b : Byte) (m : Memory) : Memory :=
  if b = unlistedByte loc then m else (loc, b) :: m

/-- Store one byte, keeping the canonical form. -/
def write : Memory → Nat → Byte → Memory
  | [], loc, b => consCell loc b []
  | (l, c) :: rest, loc, b =>
    if loc < l then consCell loc b ((l, c) :: rest)
    else if loc = l then consCell loc b rest
    else (l, c) :: write rest loc b

end Memory

/-- `n` bytes from location `loc` up, little-endian, zero-extended (20_memory.md R163). `get` reads one byte. -/
def composeBytes (get : Nat → Byte) : Nat → Nat → Word
  | 0, _ => 0#32
  | n + 1, loc => (get loc).setWidth 32 ||| (composeBytes get n (loc + 1) <<< 8)

/-- Store the low `n` bytes of `v` from location `loc` up, the least significant first (20_memory.md R163). -/
def Memory.writeBytes (m : Memory) : Nat → Nat → Word → Memory
  | 0, _, _ => m
  | n + 1, loc, v => Memory.writeBytes (m.write loc (v.setWidth 8)) n (loc + 1) (v >>> 8)

/-- The locations the block stores at: RAM, scratchpad, BIOS, cache-control window (20_memory.md R153, R161). -/
def isStorage (loc : Nat) : Bool :=
  decide (loc < 0x200000)
    || (decide (0x1F800000 ≤ loc) && decide (loc ≤ 0x1F8003FF))
    || (decide (0x1FC00000 ≤ loc) && decide (loc ≤ 0x1FC7FFFF))
    || (decide (0xFFFE0000 ≤ loc) && decide (loc ≤ 0xFFFE01FF))

/-- The locations of the BIOS ROM (20_memory.md R156). -/
def isBios (loc : Nat) : Bool := decide (0x1FC00000 ≤ loc) && decide (loc ≤ 0x1FC7FFFF)

/-- The locations of the cache-control window (20_memory.md R161). -/
def isCacheControl (loc : Nat) : Bool := decide (0xFFFE0000 ≤ loc) && decide (loc ≤ 0xFFFE01FF)

end Sys2Proof.Machine
end

