-- ==== Sys2Proof/Machine/State.lean ====
section
/-! DEFINITION. The machine's state as plain data (spec 10_state.md, whose R80 is the list), the reasons a step can
stop, and the state after reset (70_reset_and_hazards.md R731). -/

namespace Sys2Proof.Machine

/-- The fault tag that travels with a fetched word (10_state.md R60, R61). -/
inductive FetchFault where
  | none
  | adEL
  | ibe
  deriving DecidableEq, Repr

/-- What the core sends to, or asks of, an agent outside the block, in program order (20_memory.md R158, R172, R176;
44_system_cop.md R570). A read carries the answer it got. The model's own record, log 6. -/
inductive ExternalEvent where
  | deviceRead (device : Device) (p bytes : Nat) (answer : Word)
  | deviceWrite (device : Device) (p bytes : Nat) (value : Word)
  | cop2ReadData (i : RegIdx) (answer : Word)
  | cop2WriteData (i : RegIdx) (value : Word)
  | cop2ReadCtrl (i : RegIdx) (answer : Word)
  | cop2WriteCtrl (i : RegIdx) (value : Word)
  | cop2Command (imm25 : BitVec 25)
  deriving DecidableEq, Repr

/-- What the environment does between two ticks: IRQ bits it sets, bytes of RAM it writes (20_memory.md R181), and
whether the reset event comes after them (70_reset_and_hazards.md R730). Log 7. -/
structure EnvAction where
  irqs  : BitVec 11
  dma   : List (BitVec 21 × Byte)
  reset : Bool
  deriving DecidableEq, Repr

/-- The whole state. Fields from `s1` to `mem` are the state vector of 10_state.md R80; the last four are the
model's own. -/
structure State where
  /-- Stage S1 of each general register, "most recent write" (R51). Slot 0 is never read (R54). -/
  s1 : Vector Word 32
  /-- Stage S2, "pending commit" (R51). -/
  s2 : Vector Word 32
  /-- Stage S3, "fully committed" (R51). -/
  s3 : Vector Word 32
  /-- HI (R59). -/
  hi : Word
  /-- LO (R59). -/
  lo : Word
  /-- Address of the instruction of this tick (R60). -/
  currentPc : Word
  /-- The instruction word of this tick (R60). -/
  currentInstruction : Word
  /-- The fetch fault that came with it (R60). -/
  currentFault : FetchFault
  /-- Prefetch latch: the word (R61). -/
  nextInstruction : Word
  /-- Prefetch latch: the address it was fetched from (R61). -/
  nextInstructionPc : Word
  /-- Prefetch latch: its fetch fault (R61). -/
  nextInstructionFault : FetchFault
  /-- "Address to fetch next tick" (R61). -/
  nextPc : Word
  /-- The instruction of this tick is in a branch delay slot (R65). -/
  inDelaySlot : Bool
  /-- The instruction of the last tick was a taken transfer (R65). -/
  branchTaken : Bool
  /-- The 32 control registers of CP0 (R67): 8 BadVAddr, 12 SR, 13 Cause, 14 EPC, 15 PRId. -/
  cp0 : Vector Word 32
  /-- I_STAT (R76). -/
  iStat : BitVec 11
  /-- I_MASK (R76). -/
  iMask : BitVec 11
  /-- RAM, SCRATCH, CACHECTL, and the constant BIOS (R77). -/
  mem : Memory
  /-- The OPEN parameter IO_CLAIMS (20_memory.md R158); no step changes it. Log 4. -/
  ioClaims : List IoClaim
  /-- Number of the next free value. Log 5. -/
  draws : Nat
  /-- What external agents have seen, oldest first. Log 6. -/
  events : List ExternalEvent
  /-- The environment's coming actions, one a step, the next first. Log 7. -/
  env : List EnvAction
  deriving DecidableEq, Repr

/-- Reasons the machine stops with a fault. There are none: every exception of the spec is taken (60_exceptions.md
R635 "None escape to the orchestrating driver", R674 "every tick executes an instruction, a bubble or an exception
entry"), so the type has no constructor. -/
inductive Fault where
  deriving DecidableEq, Repr

/-- Reasons the model gives an instruction no meaning. -/
inductive Refusal where
  /-- Raised by `exec` for an instruction that has no meaning yet, by its mnemonic. Safe: a claim about it becomes
  unprovable. No arm raises it: every row of the table has its meaning. -/
  | notModelled (mnemonic : String)
  deriving DecidableEq, Repr

/-- Each slot of CP0 at reset: SR and PRId as the spec says, the rest as log 1 names them (10_state.md R67). -/
def State.resetCp0 : Vector Word 32 :=
  ((Vector.replicate 32 Config.unspecifiedReset).set 12 Config.resetSr).set 15 Config.resetPrId

/-- The machine right after power-on reset (70_reset_and_hazards.md R731, R732). HI, LO and the CP0 registers the
spec leaves unspecified: DESIGN CHOICE, log 1. Memory lists nothing: DESIGN CHOICE, log 2. The last four fields are
the model's own: logs 4 to 7. -/
def State.reset : State where
  s1 := Vector.replicate 32 0#32
  s2 := Vector.replicate 32 0#32
  s3 := Vector.replicate 32 0#32
  hi := Config.unspecifiedReset
  lo := Config.unspecifiedReset
  currentPc := 0#32
  currentInstruction := 0#32
  currentFault := .none
  nextInstruction := 0#32
  nextInstructionPc := 0xBFBFFFFC#32
  nextInstructionFault := .none
  nextPc := Config.resetVector
  inDelaySlot := false
  branchTaken := false
  cp0 := State.resetCp0
  iStat := 0#11
  iMask := 0#11
  mem := []
  ioClaims := Config.defaultIoClaims
  draws := 0
  events := []
  env := []

end Sys2Proof.Machine
end

