-- ==== Sys2Proof/Machine/Ops.lean ====
section
/-! DEFINITION. The named operations over the state that the meanings and the step share: registers, CP0, external
agents, translation and the bus, the data accesses and the fetch, taking an exception and returning from one, and the
parts of the tick. -/

namespace Sys2Proof.Machine

/-- The outcome of a meaning. -/
abbrev Result := Host.Outcome State Fault Refusal

/-! ## General registers (10_state.md R52 to R55) -/

/-- Slot `i` of 32. -/
def slot (v : Vector Word 32) (i : RegIdx) : Word := v[i.toNat]'i.isLt

/-- Slot `i` replaced. -/
def setSlot (v : Vector Word 32) (i : RegIdx) (w : Word) : Vector Word 32 := v.set i.toNat w i.isLt

/-- A stage of the register file with register `i` replaced; register 0 discards the write (R54). -/
def setStage (v : Vector Word 32) (i : RegIdx) (w : Word) : Vector Word 32 :=
  if i = 0#5 then v else setSlot v i w

/-- `x[i]`: the committed read, stage S3; register 0 reads as 0 (R52). -/
def State.x (s : State) (i : RegIdx) : Word := if i = 0#5 then 0#32 else slot s.s3 i

/-- `xf[i]`: the read that ignores the load delay, stage S1 (R52). -/
def State.xf (s : State) (i : RegIdx) : Word := if i = 0#5 then 0#32 else slot s.s1 i

/-- `x[i] <- v`: immediate write, all three stages (R53). -/
def State.writeReg (s : State) (i : RegIdx) (v : Word) : State :=
  { s with s1 := setStage s.s1 i v, s2 := setStage s.s2 i v, s3 := setStage s.s3 i v }

/-- `x[i] <=d v`: delayed-load write, stage S1 only (R53). -/
def State.writeDelayed (s : State) (i : RegIdx) (v : Word) : State :=
  { s with s1 := setStage s.s1 i v }

/-- `advance()`: S3 ← S2 and S2 ← S1 at once (R55). -/
def State.advance (s : State) : State := { s with s3 := s.s2, s2 := s.s1 }

/-! ## CP0 and HI, LO (10_state.md R59, R67, R75) -/

/-- `cp0[n]`. -/
def State.cp0Reg (s : State) (n : RegIdx) : Word := slot s.cp0 n

/-- `cp0[n] <- v`, all 32 bits of any index (R75). -/
def State.writeCp0 (s : State) (n : RegIdx) (v : Word) : State := { s with cp0 := setSlot s.cp0 n v }

/-- SR, `cp0[12]` (R68). -/
def State.sr (s : State) : Word := s.cp0Reg 12#5
/-- Cause, `cp0[13]` (R69). -/
def State.cause (s : State) : Word := s.cp0Reg 13#5
/-- EPC, `cp0[14]` (R70). -/
def State.epc (s : State) : Word := s.cp0Reg 14#5
/-- BadVAddr, `cp0[8]` (R71). -/
def State.badVAddr (s : State) : Word := s.cp0Reg 8#5

/-- User mode (60_exceptions.md R665). -/
def State.userMode (s : State) : Bool := srKUc s.sr

/-- HI and LO together. -/
def State.writeHiLo (s : State) (hi lo : Word) : State := { s with hi := hi, lo := lo }

/-! ## External agents (20_memory.md R158, R172; 44_system_cop.md R570) -/

/-- Record what an external agent saw. Log 6. -/
def State.record (s : State) (e : ExternalEvent) : State := { s with events := s.events ++ [e] }

/-- `DevRead(dev, p, n)`: one draw of the device's agent, zero-extended from `n` bytes. Log 5. -/
def deviceRead (d : Device) (p n : Nat) (s : State) : Word × State :=
  let answer := Config.deviceAnswer s.draws &&& fieldMask 0 (8 * n)
  (answer, { s.record (.deviceRead d p n answer) with draws := s.draws + 1 })

/-- `DevWrite(dev, p, n, v)` with `v[8n-1:0]`. -/
def deviceWrite (d : Device) (p n : Nat) (v : Word) (s : State) : State :=
  s.record (.deviceWrite d p n (v &&& fieldMask 0 (8 * n)))

/-- `cop2_read_data(i)`: one draw of coprocessor 2. Log 5. -/
def cop2ReadData (i : RegIdx) (s : State) : Word × State :=
  let answer := Config.cop2Answer s.draws
  (answer, { s.record (.cop2ReadData i answer) with draws := s.draws + 1 })

/-- `cop2_read_ctrl(i)`: one draw of coprocessor 2. Log 5. -/
def cop2ReadCtrl (i : RegIdx) (s : State) : Word × State :=
  let answer := Config.cop2Answer s.draws
  (answer, { s.record (.cop2ReadCtrl i answer) with draws := s.draws + 1 })

/-- `cop2_write_data(i, v)`. -/
def cop2WriteData (i : RegIdx) (v : Word) (s : State) : State := s.record (.cop2WriteData i v)

/-- `cop2_write_ctrl(i, v)`. -/
def cop2WriteCtrl (i : RegIdx) (v : Word) (s : State) : State := s.record (.cop2WriteCtrl i v)

/-- `cop2_command(imm25)`. -/
def cop2Command (imm25 : BitVec 25) (s : State) : State := s.record (.cop2Command imm25)

/-! ## Translation and routing (20_memory.md R151 to R162) -/

/-- The four segments (R151). -/
inductive Segment where
  | kuseg
  | kseg0
  | kseg1
  | kseg2
  deriving DecidableEq, Repr

/-- The segment by `addr[31:29]` (R151). -/
def segmentOf (addr : Word) : Segment :=
  let seg := addr.toNat / 2 ^ 29
  if seg < 4 then .kuseg else if seg = 4 then .kseg0 else if seg = 5 then .kseg1 else .kseg2

/-- What answers an access. -/
inductive Target where
  /-- Stored bytes from this location: RAM, scratchpad, cache-control window (R154, R155, R161). -/
  | storage (loc : Nat)
  /-- BIOS bytes from this location: writes are ignored (R156). -/
  | rom (loc : Nat)
  /-- The interrupt registers from byte `k` of their eight (R159, R160). -/
  | interrupts (k : Nat)
  /-- An external device at offset `p` (R157, R158). -/
  | device (d : Device) (p : Nat)
  deriving DecidableEq, Repr

/-- The I/O-port fan-out: the interrupt registers, else the device that claims `p`, else none (R158, R162). -/
def routeIo (claims : List IoClaim) (p : Nat) : Option Target :=
  if 0x1F801070 ≤ p ∧ p ≤ 0x1F801077 then some (.interrupts (p - 0x1F801070))
  else
    match claims.find? (fun c => decide (c.first ≤ p) && decide (p ≤ c.last)) with
    | some c => some (.device c.device p)
    | none => none

/-- Routing of the physical offset (R153). -/
def routePhysical (claims : List IoClaim) (p : Nat) : Option Target :=
  if p ≤ 0x007FFFFF then some (.storage (p % 0x200000))
  else if 0x1F000000 ≤ p ∧ p ≤ 0x1F7FFFFF then some (.device .exp1 p)
  else if 0x1F800000 ≤ p ∧ p ≤ 0x1F8003FF then some (.storage p)
  else if 0x1F801000 ≤ p ∧ p ≤ 0x1F802FFF then routeIo claims p
  else if 0x1FC00000 ≤ p ∧ p ≤ 0x1FC7FFFF then some (.rom p)
  else none

/-- Translation and routing of a virtual address; `none` is the bus error of R162 (R152, R161). -/
def route (claims : List IoClaim) (addr : Word) : Option Target :=
  match segmentOf addr with
  | .kuseg => routePhysical claims addr.toNat
  | .kseg0 => routePhysical claims (addr.toNat - 0x80000000)
  | .kseg1 => routePhysical claims (addr.toNat - 0xA0000000)
  | .kseg2 =>
    if 0xFFFE0000 ≤ addr.toNat ∧ addr.toNat ≤ 0xFFFE01FF then some (.storage addr.toNat) else none

/-! ## The bus (20_memory.md R159, R160, R163, R164) -/

/-- The width of an access (R170). -/
inductive Width where
  | byte
  | half
  | word
  deriving DecidableEq, Repr

/-- Its number of bytes. -/
def Width.bytes : Width → Nat
  | .byte => 1
  | .half => 2
  | .word => 4

/-- Byte `k` of the interrupt registers: `I_STAT` in 0..3, `I_MASK` in 4..7 (R159, R160). -/
def interruptByte (s : State) (k : Nat) : Byte :=
  if k < 4 then (s.iStat.setWidth 32 >>> (8 * k)).setWidth 8
  else (s.iMask.setWidth 32 >>> (8 * (k - 4))).setWidth 8

/-- Write byte `b` to byte `k` of the interrupt registers: `I_STAT` keeps the bits where `b` has a 1 (R159),
`I_MASK` takes the byte (R160). -/
def writeInterruptByte (s : State) (k : Nat) (b : Byte) : State :=
  if k < 4 then
    { s with iStat := (s.iStat.setWidth 32 &&& ~~~ ((~~~ b).setWidth 32 <<< (8 * k))).setWidth 11 }
  else
    { s with iMask := (setField (s.iMask.setWidth 32) (8 * (k - 4)) b).setWidth 11 }

/-- The low `n` bytes of `v` to the interrupt registers from byte `k` up, in ascending order (R163, R164). -/
def writeInterruptBytes (s : State) : Nat → Nat → Word → State
  | 0, _, _ => s
  | n + 1, k, v => writeInterruptBytes (writeInterruptByte s k (v.setWidth 8)) n (k + 1) (v >>> 8)

/-- `BusRead` of a routed access (R164): the value, zero-extended, and the state after it. -/
def busRead (t : Target) (w : Width) (s : State) : Word × State :=
  match t with
  | .storage loc => (composeBytes s.mem.read w.bytes loc, s)
  | .rom loc => (composeBytes s.mem.read w.bytes loc, s)
  | .interrupts k => (composeBytes (interruptByte s) w.bytes k, s)
  | .device d p => deviceRead d p w.bytes s

/-- `BusWrite` of a routed access (R164). -/
def busWrite (t : Target) (w : Width) (v : Word) (s : State) : State :=
  match t with
  | .storage loc => { s with mem := s.mem.writeBytes w.bytes loc v }
  | .rom _ => s
  | .interrupts k => writeInterruptBytes s w.bytes k v
  | .device d p => deviceWrite d p w.bytes v s

/-! ## Exceptions (60_exceptions.md R640, R655) -/

/-- The exceptions of R640 that are ever raised, with what each records. -/
inductive Exc where
  | int
  | adEL (badVAddr : Word)
  | adES (badVAddr : Word)
  | ibe
  | dbe
  | sys
  | bp
  | ri
  | cpU (ce : BitVec 2)
  | ov
  deriving DecidableEq, Repr

/-- Cause.ExcCode (R640). -/
def Exc.code : Exc → BitVec 5
  | .int => 0#5
  | .adEL _ => 4#5
  | .adES _ => 5#5
  | .ibe => 6#5
  | .dbe => 7#5
  | .sys => 8#5
  | .bp => 9#5
  | .ri => 10#5
  | .cpU _ => 11#5
  | .ov => 12#5

/-- The coprocessor number a CpU records in Cause.CE (R655). -/
def Exc.ce : Exc → Option (BitVec 2)
  | .cpU ce => some ce
  | _ => none

/-- The address an address error records in BadVAddr (R655). -/
def Exc.badVAddr : Exc → Option Word
  | .adEL a => some a
  | .adES a => some a
  | _ => none

/-- The vector, by SR.BEV (R657). -/
def exceptionVector (sr : Word) : Word := if srBev sr then 0xBFC00180#32 else 0x80000080#32

/-- `Redirect(V)`: a bubble in the latch and the next fetch at `V` (R655). -/
def redirect (v : Word) (s : State) : State :=
  { s with
    nextInstruction := 0#32
    nextInstructionFault := .none
    nextInstructionPc := v - 4#32
    nextPc := v
    branchTaken := false }

/-- CP0 after exception entry: EPC, Cause, BadVAddr where the exception records one, and SR (R655). -/
def cp0OnEntry (e : Exc) (s : State) : Vector Word 32 :=
  let epc := if s.inDelaySlot then s.currentPc - 4#32 else s.currentPc
  let c := setSlot s.cp0 14#5 epc
  let c := setSlot c 13#5 (causeOnEntry s.cause s.inDelaySlot e.code e.ce)
  let c := setSlot c 12#5 (pushModeStack s.sr)
  match e.badVAddr with
  | some a => setSlot c 8#5 a
  | none => c

/-- Taking an exception, the one entry for every kind (R635, R655). SR.BEV is read as it stands when entry runs; the
push does not change it. -/
def enterException (e : Exc) (s : State) : State :=
  redirect (exceptionVector s.sr) { s with cp0 := cp0OnEntry e s }

/-- Return from exception: pop the mode stack; the program counter is not altered (44_system_cop.md R567). -/
def returnFromException (s : State) : State := s.writeCp0 12#5 (popModeStack s.sr)

/-- `raise E`: the instruction ends with the entry of `E` on the state it began with (00_scope.md R11). -/
def raise (e : Exc) (s : State) : Result := .next (enterException e s)

/-! ## Data accesses (20_memory.md R165, R166) -/

/-- The effective address of the I-type form, its base read from stage S3 (43_loadstore.md R500). -/
def State.ea (s : State) (rs : RegIdx) (imm16 : BitVec 16) : Word := effectiveAddress (s.x rs) imm16

/-- Whether the access is a store, which decides AdEL or AdES. -/
inductive Access where
  | load
  | store
  deriving DecidableEq, Repr

/-- The address error of a load or a store (R165, R166). -/
def Access.addressError (a : Access) (badVAddr : Word) : Exc :=
  match a with
  | .load => .adEL badVAddr
  | .store => .adES badVAddr

/-- `addr` is not aligned to the width (R168). -/
def misaligned (w : Width) (addr : Word) : Bool := addr.toNat % w.bytes != 0

/-- User mode and a kernel segment (60_exceptions.md R666). -/
def privileged (s : State) (addr : Word) : Bool := s.userMode && addr.msb

/-- What the checks of an access come to. -/
inductive Checked where
  | raised (e : Exc)
  | isolated
  | target (t : Target)
  deriving DecidableEq, Repr

/-- The checks of `MemRead` and `MemWrite`, in their order: alignment, privilege, isolation, bus error (R165, R166).
`report` is the address recorded by an address error: `addr`, but for LWL, LWR, SWL and SWR what `partialReport`
gives. -/
def checkAccess (a : Access) (report addr : Word) (w : Width) (s : State) : Checked :=
  if misaligned w addr then .raised (a.addressError report)
  else if privileged s addr then .raised (a.addressError report)
  else if srIsC s.sr then .isolated
  else
    match route s.ioClaims addr with
    | none => .raised .dbe
    | some t => .target t

/-- What an address error of LWL, LWR, SWL or SWR records: `addr`, the address given to `MemRead` or `MemWrite` (R165,
R166 with 43_loadstore.md R508, R509, R513, R514). 43_loadstore.md R502 says the effective address `ea` of every load
and store. DEDUCED, unsafe, log 8: this is the one place where the choice stands. -/
def partialReport (_ea addr : Word) : Word := addr

/-- A load: on `ISOLATED` nothing happens, on an exception it is taken, else `use` gets the value and the state after
the bus read (R165; 43_loadstore.md R502). -/
def withLoad (report addr : Word) (w : Width) (s : State) (use : Word → State → State) : Result :=
  match checkAccess .load report addr w s with
  | .raised e => raise e s
  | .isolated => .next s
  | .target t => .next (use (busRead t w s).1 (busRead t w s).2)

/-- A store of the low bytes of `v` (R166; 43_loadstore.md R502). -/
def storeWord (addr : Word) (w : Width) (v : Word) (s : State) : Result :=
  match checkAccess .store addr addr w s with
  | .raised e => raise e s
  | .isolated => .next s
  | .target t => .next (busWrite t w v s)

/-- The byte writes of SWL and SWR, in order (43_loadstore.md R513, R514). An exception discards them all
(00_scope.md R11; log 10). -/
def storeBytes (ea : Word) : List (Word × Byte) → State → Except Exc State
  | [], s => .ok s
  | (addr, b) :: rest, s =>
    match checkAccess .store (partialReport ea addr) addr .byte s with
    | .raised e => .error e
    | .isolated => storeBytes ea rest s
    | .target t => storeBytes ea rest (busWrite t .byte (b.setWidth 32) s)

/-- A partial-word store. -/
def storePartial (ea : Word) (bytes : List (Word × Byte)) (s : State) : Result :=
  match storeBytes ea bytes s with
  | .error e => raise e s
  | .ok t => .next t

/-! ## Fetch (20_memory.md R167) -/

/-- `Fetch(addr)`: a word and a fault tag, never an exception; not affected by SR.IsC. -/
def fetch (addr : Word) (s : State) : Word × FetchFault × State :=
  if misaligned .word addr then (0#32, .adEL, s)
  else if privileged s addr then (0#32, .adEL, s)
  else
    match route s.ioClaims addr with
    | none => (0#32, .ibe, s)
    | some t => ((busRead t .word s).1, .none, (busRead t .word s).2)

/-! ## Coprocessor usability (44_system_cop.md R562) -/

/-- `CheckCop(z)`: the CpU it raises, if any. -/
def checkCop (z : BitVec 2) (s : State) : Option Exc :=
  if z = 0#2 then
    if s.userMode && !srCu0 s.sr then some (.cpU 0#2) else none
  else if z = 2#2 then
    if srCu2 s.sr then none else some (.cpU 2#2)
  else some (.cpU z)

/-- A coprocessor instruction: the check first, then what it does. -/
def withCop (z : BitVec 2) (s : State) (action : Result) : Result :=
  match checkCop z s with
  | some e => raise e s
  | none => action

/-! ## The tick (60_exceptions.md R630 to R636) -/

/-- Step 1, promote (R631). -/
def promote (s : State) : State :=
  { s with
    currentPc := s.nextInstructionPc
    currentInstruction := s.nextInstruction
    currentFault := s.nextInstructionFault
    inDelaySlot := s.branchTaken
    branchTaken := false }

/-- Step 2, fetch (R632). -/
def fetchNext (s : State) : State :=
  let r := fetch s.nextPc s
  { r.2.2 with
    nextInstruction := r.1
    nextInstructionFault := r.2.1
    nextInstructionPc := s.nextPc
    nextPc := s.nextPc + 4#32 }

/-- The interrupt sample (R633). -/
def sampleInterrupt (s : State) : State :=
  s.writeCp0 13#5 (sampleCause s.cause (interruptRequest s.iStat s.iMask))

/-- Everything before the current instruction is selected: promote, fetch, sample. -/
def beginTick (s : State) : State := sampleInterrupt (fetchNext (promote s))

/-- What replaces the current instruction, if anything: an enabled interrupt, then its fetch fault (R634). -/
def pendingException (s : State) : Option Exc :=
  if interruptEnabled s.sr s.cause then some .int
  else
    match s.currentFault with
    | .adEL => some (.adEL s.currentPc)
    | .ibe => some .ibe
    | .none => none

/-- Step 7, end of tick (R636). -/
def endTick (s : State) : State := { s.advance with inDelaySlot := false }

/-! ## Between ticks (20_memory.md R181; 70_reset_and_hazards.md R730, R731, R734) -/

/-- The bytes of RAM that bus masters write. -/
def dmaWrites : List (BitVec 21 × Byte) → Memory → Memory
  | [], m => m
  | (a, b) :: rest, m => dmaWrites rest (m.write a.toNat b)

/-- The reset event: every register as after power-on, the cache-control window zero, RAM, scratchpad and BIOS kept
(R730, R731, R734). What is not the block's, and the model's own fields, are kept. -/
def resetEvent (s : State) : State :=
  { State.reset with
    mem := s.mem.filter (fun c => !isCacheControl c.1)
    ioClaims := s.ioClaims
    draws := s.draws
    events := s.events
    env := s.env }

/-- One action of the environment: IRQ bits set, RAM written (R181, 60_exceptions.md R644), then the reset event where
the action holds one. -/
def applyAction (a : EnvAction) (s : State) : State :=
  let t := { s with iStat := s.iStat ||| a.irqs, mem := dmaWrites a.dma s.mem }
  if a.reset then resetEvent t else t

/-- The environment step (70_reset_and_hazards.md R752); nothing happens when no action is left. -/
def envStep (s : State) : State :=
  match s.env with
  | [] => s
  | a :: rest => applyAction a { s with env := rest }

/-- What follows the instruction or the exception entry: the end of the tick, then the environment step. -/
def finishStep : Result → Result
  | .next s => .next (envStep (endTick s))
  | .fault r => .fault r
  | .refused r => .refused r

end Sys2Proof.Machine
end

