-- ==== Sys2Proof/Machine/Alu.lean ====
section
/-! DEFINITION. Integer ALU, shift, set and immediate instructions (spec 40_alu.md). -/

namespace Sys2Proof.Machine

/-- The immediate write of a result (10_state.md R57). -/
def writeResult (r : RegIdx) (v : Word) (s : State) : Result := .next (s.writeReg r v)

/-- A result that traps: Ov and no write when `overflow` holds (R301). -/
def writeOrOverflow (overflow : Bool) (r : RegIdx) (v : Word) (s : State) : Result :=
  if overflow then raise .ov s else writeResult r v s

/-- ADD (R302): `x[rd] <- x[rs] + x[rt]`, or Ov. -/
def execAdd (rd rs rt : RegIdx) (s : State) : Result :=
  writeOrOverflow (overflowAdd (s.x rs) (s.x rt)) rd (s.x rs + s.x rt) s

/-- ADDU (R303): `x[rd] <- x[rs] + x[rt]`. -/
def execAddu (rd rs rt : RegIdx) (s : State) : Result := writeResult rd (s.x rs + s.x rt) s

/-- SUB (R304): `x[rd] <- x[rs] - x[rt]`, or Ov. -/
def execSub (rd rs rt : RegIdx) (s : State) : Result :=
  writeOrOverflow (overflowSub (s.x rs) (s.x rt)) rd (s.x rs - s.x rt) s

/-- SUBU (R305): `x[rd] <- x[rs] - x[rt]`. -/
def execSubu (rd rs rt : RegIdx) (s : State) : Result := writeResult rd (s.x rs - s.x rt) s

/-- AND (R306): `x[rd] <- x[rs] & x[rt]`. -/
def execAnd (rd rs rt : RegIdx) (s : State) : Result := writeResult rd (s.x rs &&& s.x rt) s

/-- OR (R307): `x[rd] <- x[rs] | x[rt]`. -/
def execOr (rd rs rt : RegIdx) (s : State) : Result := writeResult rd (s.x rs ||| s.x rt) s

/-- XOR (R308): `x[rd] <- x[rs] ^ x[rt]`. -/
def execXor (rd rs rt : RegIdx) (s : State) : Result := writeResult rd (s.x rs ^^^ s.x rt) s

/-- NOR (R309): `x[rd] <- ~(x[rs] | x[rt])`. -/
def execNor (rd rs rt : RegIdx) (s : State) : Result := writeResult rd (~~~(s.x rs ||| s.x rt)) s

/-- SLT (R310): 1 if `x[rs] < x[rt]` signed, else 0. -/
def execSlt (rd rs rt : RegIdx) (s : State) : Result := writeResult rd (boolWord ((s.x rs).slt (s.x rt))) s

/-- SLTU (R311): 1 if `x[rs] < x[rt]` unsigned, else 0. -/
def execSltu (rd rs rt : RegIdx) (s : State) : Result := writeResult rd (boolWord ((s.x rs).ult (s.x rt))) s

/-- SLL (R312): `x[rd] <- x[rt] << shamt`. -/
def execSll (rd rt : RegIdx) (shamt : BitVec 5) (s : State) : Result := writeResult rd (shiftLeft (s.x rt) shamt) s

/-- SRL (R313): `x[rd] <- x[rt] >>u shamt`. -/
def execSrl (rd rt : RegIdx) (shamt : BitVec 5) (s : State) : Result :=
  writeResult rd (shiftRightLogical (s.x rt) shamt) s

/-- SRA (R314): `x[rd] <- x[rt] >>s shamt`. -/
def execSra (rd rt : RegIdx) (shamt : BitVec 5) (s : State) : Result :=
  writeResult rd (shiftRightArith (s.x rt) shamt) s

/-- SLLV (R315): `x[rd] <- x[rt] << x[rs][4:0]`. -/
def execSllv (rd rt rs : RegIdx) (s : State) : Result :=
  writeResult rd (shiftLeft (s.x rt) (shiftAmount (s.x rs))) s

/-- SRLV (R316): `x[rd] <- x[rt] >>u x[rs][4:0]`. -/
def execSrlv (rd rt rs : RegIdx) (s : State) : Result :=
  writeResult rd (shiftRightLogical (s.x rt) (shiftAmount (s.x rs))) s

/-- SRAV (R317): `x[rd] <- x[rt] >>s x[rs][4:0]`. -/
def execSrav (rd rt rs : RegIdx) (s : State) : Result :=
  writeResult rd (shiftRightArith (s.x rt) (shiftAmount (s.x rs))) s

/-- ADDI (R318): `x[rt] <- x[rs] + sext_16(imm16)`, or Ov. -/
def execAddi (rt rs : RegIdx) (imm16 : BitVec 16) (s : State) : Result :=
  writeOrOverflow (overflowAdd (s.x rs) (sext16 imm16)) rt (s.x rs + sext16 imm16) s

/-- ADDIU (R319): `x[rt] <- x[rs] + sext_16(imm16)`. -/
def execAddiu (rt rs : RegIdx) (imm16 : BitVec 16) (s : State) : Result := writeResult rt (s.x rs + sext16 imm16) s

/-- SLTI (R320): 1 if `x[rs] < sext_16(imm16)` signed, else 0. -/
def execSlti (rt rs : RegIdx) (imm16 : BitVec 16) (s : State) : Result :=
  writeResult rt (boolWord ((s.x rs).slt (sext16 imm16))) s

/-- SLTIU (R321): 1 if `x[rs] < sext_16(imm16)` unsigned, else 0. -/
def execSltiu (rt rs : RegIdx) (imm16 : BitVec 16) (s : State) : Result :=
  writeResult rt (boolWord ((s.x rs).ult (sext16 imm16))) s

/-- ANDI (R322): `x[rt] <- x[rs] & zext_16(imm16)`. -/
def execAndi (rt rs : RegIdx) (imm16 : BitVec 16) (s : State) : Result :=
  writeResult rt (s.x rs &&& zext16 imm16) s

/-- ORI (R323): `x[rt] <- x[rs] | zext_16(imm16)`. -/
def execOri (rt rs : RegIdx) (imm16 : BitVec 16) (s : State) : Result := writeResult rt (s.x rs ||| zext16 imm16) s

/-- XORI (R324): `x[rt] <- x[rs] ^ zext_16(imm16)`. -/
def execXori (rt rs : RegIdx) (imm16 : BitVec 16) (s : State) : Result :=
  writeResult rt (s.x rs ^^^ zext16 imm16) s

/-- LUI (R325): `x[rt] <- imm16 << 16`. -/
def execLui (rt : RegIdx) (imm16 : BitVec 16) (s : State) : Result := writeResult rt (upperImmediate imm16) s

end Sys2Proof.Machine
end

