-- ==== Sys2Proof/Machine/Branch.lean ====
section
/-! DEFINITION. Jumps and branches (spec 42_branch.md). -/

namespace Sys2Proof.Machine

/-- A taken transfer: the next fetch and the mark of the delay slot (R450). -/
def transfer (target : Word) (s : State) : State := { s with nextPc := target, branchTaken := true }

/-- A conditional branch (R456): nothing changes when it is not taken. -/
def branchIf (c : Bool) (imm16 : BitVec 16) (s : State) : State :=
  if c then transfer (branchTarget s.nextPc imm16) s else s

/-- The link of `np` into a register (R451). -/
def link (r : RegIdx) (s : State) : State := s.writeReg r s.nextPc

/-- J (R452): jump within the 256 MiB region of `np`. -/
def execJ (target26 : BitVec 26) (s : State) : Result := .next (transfer (jumpTarget s.nextPc target26) s)

/-- JAL (R453): J with the link in r31. -/
def execJal (target26 : BitVec 26) (s : State) : Result :=
  .next (transfer (jumpTarget s.nextPc target26) (link 31#5 s))

/-- JR (R454): jump to `x[rs]`. -/
def execJr (rs : RegIdx) (s : State) : Result := .next (transfer (s.x rs) s)

/-- JALR (R455): jump to `x[rs]`, read before the link into `rd` is written. -/
def execJalr (rd rs : RegIdx) (s : State) : Result := .next (transfer (s.x rs) (link rd s))

/-- BEQ (R457): branch if equal. -/
def execBeq (rs rt : RegIdx) (imm16 : BitVec 16) (s : State) : Result :=
  .next (branchIf (s.x rs == s.x rt) imm16 s)

/-- BNE (R458): branch if not equal. -/
def execBne (rs rt : RegIdx) (imm16 : BitVec 16) (s : State) : Result :=
  .next (branchIf (s.x rs != s.x rt) imm16 s)

/-- BLEZ (R459): branch if `x[rs] <= 0` signed. -/
def execBlez (rs : RegIdx) (imm16 : BitVec 16) (s : State) : Result :=
  .next (branchIf (decide ((s.x rs).toInt ≤ 0)) imm16 s)

/-- BGTZ (R460): branch if `x[rs] > 0` signed. -/
def execBgtz (rs : RegIdx) (imm16 : BitVec 16) (s : State) : Result :=
  .next (branchIf (decide (0 < (s.x rs).toInt)) imm16 s)

/-- BLTZ (R461): branch if `x[rs][31] == 1`. -/
def execBltz (rs : RegIdx) (imm16 : BitVec 16) (s : State) : Result := .next (branchIf ((s.x rs).msb) imm16 s)

/-- BGEZ (R464): branch if `x[rs][31] == 0`. -/
def execBgez (rs : RegIdx) (imm16 : BitVec 16) (s : State) : Result := .next (branchIf (!(s.x rs).msb) imm16 s)

/-- BLTZAL (R462): link always, branch if the old `x[rs][31] == 1`. -/
def execBltzal (rs : RegIdx) (imm16 : BitVec 16) (s : State) : Result :=
  .next (branchIf (s.x rs).msb imm16 (link 31#5 s))

/-- BGEZAL (R463): link always, branch if the old `x[rs][31] == 0`. -/
def execBgezal (rs : RegIdx) (imm16 : BitVec 16) (s : State) : Result :=
  .next (branchIf (!(s.x rs).msb) imm16 (link 31#5 s))

end Sys2Proof.Machine
end

