-- ==== Sys2Proof/Machine/LoadStore.lean ====
section
/-! DEFINITION. Loads and stores (spec 43_loadstore.md). -/

namespace Sys2Proof.Machine

/-- A load with the delayed write of the extended value (R501, R503 to R507). -/
def loadInto (rt : RegIdx) (addr : Word) (w : Width) (extend : Word → Word) (s : State) : Result :=
  withLoad addr addr w s fun v t => t.writeDelayed rt (extend v)

/-- A partial-word load: the aligned word merged into stage S1 of the register (R508, R509). -/
def loadMerge (rt : RegIdx) (addr : Word) (merge : Nat → Word → Word → Word) (s : State) : Result :=
  withLoad (partialReport addr (alignedWord addr)) (alignedWord addr) .word s fun v t =>
    t.writeDelayed rt (merge (byteOffset addr) (s.xf rt) v)

/-- LB (R503): byte, sign-extended. -/
def execLb (rt rs : RegIdx) (imm16 : BitVec 16) (s : State) : Result :=
  loadInto rt (s.ea rs imm16) .byte sextLow8 s

/-- LBU (R504): byte, zero-extended. -/
def execLbu (rt rs : RegIdx) (imm16 : BitVec 16) (s : State) : Result :=
  loadInto rt (s.ea rs imm16) .byte zextLow8 s

/-- LH (R505): halfword, sign-extended. -/
def execLh (rt rs : RegIdx) (imm16 : BitVec 16) (s : State) : Result :=
  loadInto rt (s.ea rs imm16) .half sextLow16 s

/-- LHU (R506): halfword, zero-extended. -/
def execLhu (rt rs : RegIdx) (imm16 : BitVec 16) (s : State) : Result :=
  loadInto rt (s.ea rs imm16) .half zextLow16 s

/-- LW (R507): word. -/
def execLw (rt rs : RegIdx) (imm16 : BitVec 16) (s : State) : Result := loadInto rt (s.ea rs imm16) .word id s

/-- LWL (R508): load word left. -/
def execLwl (rt rs : RegIdx) (imm16 : BitVec 16) (s : State) : Result := loadMerge rt (s.ea rs imm16) lwlMerge s

/-- LWR (R509): load word right. -/
def execLwr (rt rs : RegIdx) (imm16 : BitVec 16) (s : State) : Result := loadMerge rt (s.ea rs imm16) lwrMerge s

/-- SB (R510): store the low byte of `x[rt]`. -/
def execSb (rt rs : RegIdx) (imm16 : BitVec 16) (s : State) : Result := storeWord (s.ea rs imm16) .byte (s.x rt) s

/-- SH (R511): store the low half of `x[rt]`. -/
def execSh (rt rs : RegIdx) (imm16 : BitVec 16) (s : State) : Result := storeWord (s.ea rs imm16) .half (s.x rt) s

/-- SW (R512): store `x[rt]`. -/
def execSw (rt rs : RegIdx) (imm16 : BitVec 16) (s : State) : Result := storeWord (s.ea rs imm16) .word (s.x rt) s

/-- SWL (R513): store word left. -/
def execSwl (rt rs : RegIdx) (imm16 : BitVec 16) (s : State) : Result :=
  storePartial (s.ea rs imm16) (swlBytes (s.ea rs imm16) (s.x rt)) s

/-- SWR (R514): store word right. -/
def execSwr (rt rs : RegIdx) (imm16 : BitVec 16) (s : State) : Result :=
  storePartial (s.ea rs imm16) (swrBytes (s.ea rs imm16) (s.x rt)) s

end Sys2Proof.Machine
end

