-- ==== Sys2Proof/Machine/MulDiv.lean ====
section
/-! DEFINITION. Multiply, divide and HI/LO moves (spec 41_muldiv.md). -/

namespace Sys2Proof.Machine

/-- MULT (R401): the signed product into HI and LO. -/
def execMult (rs rt : RegIdx) (s : State) : Result :=
  let p := signedProduct (s.x rs) (s.x rt)
  .next (s.writeHiLo (p.extractLsb' 32 32) (p.extractLsb' 0 32))

/-- MULTU (R402): the unsigned product into HI and LO. -/
def execMultu (rs rt : RegIdx) (s : State) : Result :=
  let p := unsignedProduct (s.x rs) (s.x rt)
  .next (s.writeHiLo (p.extractLsb' 32 32) (p.extractLsb' 0 32))

/-- DIV (R403): remainder into HI, quotient into LO. -/
def execDiv (rs rt : RegIdx) (s : State) : Result :=
  let r := signedDivide (s.x rs) (s.x rt)
  .next (s.writeHiLo r.1 r.2)

/-- DIVU (R404): remainder into HI, quotient into LO. -/
def execDivu (rs rt : RegIdx) (s : State) : Result :=
  let r := unsignedDivide (s.x rs) (s.x rt)
  .next (s.writeHiLo r.1 r.2)

/-- MFHI (R405): `x[rd] <- HI`. -/
def execMfhi (rd : RegIdx) (s : State) : Result := .next (s.writeReg rd s.hi)

/-- MTHI (R406): `HI <- x[rs]`. -/
def execMthi (rs : RegIdx) (s : State) : Result := .next (s.writeHiLo (s.x rs) s.lo)

/-- MFLO (R407): `x[rd] <- LO`. -/
def execMflo (rd : RegIdx) (s : State) : Result := .next (s.writeReg rd s.lo)

/-- MTLO (R408): `LO <- x[rs]`. -/
def execMtlo (rs : RegIdx) (s : State) : Result := .next (s.writeHiLo s.hi (s.x rs))

end Sys2Proof.Machine
end

