-- ==== Sys2Proof/Machine/System.lean ====
section
/-! DEFINITION. System instructions and coprocessors (spec 44_system_cop.md), and reserved words (30_encoding.md R261). -/

namespace Sys2Proof.Machine

/-- SYSCALL (R560): raise Sys, `code20` ignored. -/
def execSyscall (_code20 : BitVec 20) (s : State) : Result := raise .sys s

/-- BREAK (R561): raise Bp, `code20` ignored. -/
def execBreakpoint (_code20 : BitVec 20) (s : State) : Result := raise .bp s

/-! ## Coprocessor 0 -/

/-- MFC0 and CFC0 reach the same array (decision D30). -/
def moveFromCp0 (rt rd : RegIdx) (s : State) : Result :=
  withCop 0#2 s (.next (s.writeReg rt (s.cp0Reg rd)))

/-- MTC0 and CTC0 reach the same array, all 32 bits (R565, decision D30). -/
def moveToCp0 (rt rd : RegIdx) (s : State) : Result :=
  withCop 0#2 s (.next (s.writeCp0 rd (s.x rt)))

/-- MFC0 (R563): `x[rt] <- cp0[rd]`. -/
def execMfc0 (rt rd : RegIdx) (s : State) : Result := moveFromCp0 rt rd s

/-- CFC0 (R564): `x[rt] <- cp0[rd]`. -/
def execCfc0 (rt rd : RegIdx) (s : State) : Result := moveFromCp0 rt rd s

/-- MTC0 (R565): `cp0[rd] <- x[rt]`. -/
def execMtc0 (rt rd : RegIdx) (s : State) : Result := moveToCp0 rt rd s

/-- CTC0 (R566): `cp0[rd] <- x[rt]`. -/
def execCtc0 (rt rd : RegIdx) (s : State) : Result := moveToCp0 rt rd s

/-- RFE (R567): pop the mode stack. -/
def execRfe (s : State) : Result := withCop 0#2 s (.next (returnFromException s))

/-- LWC0 (R568): `cp0[rt]` from memory, immediate. -/
def execLwc0 (rt rs : RegIdx) (imm16 : BitVec 16) (s : State) : Result :=
  withCop 0#2 s
    (withLoad (s.ea rs imm16) (s.ea rs imm16) .word s fun v t => t.writeCp0 rt v)

/-- SWC0 (R569): `cp0[rt]` to memory. -/
def execSwc0 (rt rs : RegIdx) (imm16 : BitVec 16) (s : State) : Result :=
  withCop 0#2 s (storeWord (s.ea rs imm16) .word (s.cp0Reg rt) s)

/-! ## Coprocessor 2 (R570) -/

/-- MFC2 (R571): `x[rt] <- cop2_read_data(rd)`. -/
def execMfc2 (rt rd : RegIdx) (s : State) : Result :=
  withCop 2#2 s (.next ((cop2ReadData rd s).2.writeReg rt (cop2ReadData rd s).1))

/-- CFC2 (R572): `x[rt] <- cop2_read_ctrl(rd)`. -/
def execCfc2 (rt rd : RegIdx) (s : State) : Result :=
  withCop 2#2 s (.next ((cop2ReadCtrl rd s).2.writeReg rt (cop2ReadCtrl rd s).1))

/-- MTC2 (R573): `cop2_write_data(rd, x[rt])`. -/
def execMtc2 (rt rd : RegIdx) (s : State) : Result := withCop 2#2 s (.next (cop2WriteData rd (s.x rt) s))

/-- CTC2 (R574): `cop2_write_ctrl(rd, x[rt])`. -/
def execCtc2 (rt rd : RegIdx) (s : State) : Result := withCop 2#2 s (.next (cop2WriteCtrl rd (s.x rt) s))

/-- COP2 (R575): `cop2_command(imm25)`. -/
def execCop2 (imm25 : BitVec 25) (s : State) : Result := withCop 2#2 s (.next (cop2Command imm25 s))

/-- LWC2 (R576): `cop2_write_data(rt, word)`. -/
def execLwc2 (rt rs : RegIdx) (imm16 : BitVec 16) (s : State) : Result :=
  withCop 2#2 s
    (withLoad (s.ea rs imm16) (s.ea rs imm16) .word s fun v t => cop2WriteData rt v t)

/-- A store of coprocessor-2 data register `rt` at `addr`: the register is read after the address checks pass, so a
faulting store issues no operation (R577); an isolated store has passed them, so it reads the register and makes no
bus access (log 9). -/
def storeCop2 (rt : RegIdx) (addr : Word) (s : State) : Result :=
  match checkAccess .store addr addr .word s with
  | .raised e => raise e s
  | .isolated => .next (cop2ReadData rt s).2
  | .target t => .next (busWrite t .word (cop2ReadData rt s).1 (cop2ReadData rt s).2)

/-- SWC2 (R577): `cop2_read_data(rt)` to memory. -/
def execSwc2 (rt rs : RegIdx) (imm16 : BitVec 16) (s : State) : Result :=
  withCop 2#2 s (storeCop2 rt (s.ea rs imm16) s)

/-! ## Absent coprocessors and reserved words -/

/-- Every word of an absent coprocessor raises CpU with its number (R578). -/
def absentCop (z : BitVec 2) (s : State) : Result := raise (.cpU z) s

/-- COP1 (R578): raise CpU with CE = 1. -/
def execCop1 (s : State) : Result := absentCop 1#2 s

/-- COP3 (R578): raise CpU with CE = 3. -/
def execCop3 (s : State) : Result := absentCop 3#2 s

/-- LWC1 (R578): raise CpU with CE = 1. -/
def execLwc1 (s : State) : Result := absentCop 1#2 s

/-- LWC3 (R578): raise CpU with CE = 3. -/
def execLwc3 (s : State) : Result := absentCop 3#2 s

/-- SWC1 (R578): raise CpU with CE = 1. -/
def execSwc1 (s : State) : Result := absentCop 1#2 s

/-- SWC3 (R578): raise CpU with CE = 3. -/
def execSwc3 (s : State) : Result := absentCop 3#2 s

/-- A reserved word: RI, for the COP0 and COP2 forms after the usability check (30_encoding.md R261; R579, R580). -/
def execReserved (why : Reserved) (s : State) : Result :=
  match why with
  | .primary _ => raise .ri s
  | .special _ => raise .ri s
  | .bcond _ => raise .ri s
  | .cop0Move _ => withCop 0#2 s (raise .ri s)
  | .cop0Operation _ => withCop 0#2 s (raise .ri s)
  | .cop2Move _ => withCop 2#2 s (raise .ri s)

end Sys2Proof.Machine
end

