-- ==== Sys2Proof/Machine/Dispatch.lean ====
section
/-! DEFINITION. One arm per instruction: its meaning. -/

namespace Sys2Proof.Machine

/-- What an instruction does in its tick, after promote, fetch and interrupt sample (spec 60_exceptions.md R634 (c)). -/
def exec (i : Instr) (s : State) : Host.Outcome State Fault Refusal :=
  match i with
  -- ALU, register forms (40_alu.md)
  | .add rd rs rt => Sys2Proof.Machine.execAdd rd rs rt s
  | .addu rd rs rt => Sys2Proof.Machine.execAddu rd rs rt s
  | .sub rd rs rt => Sys2Proof.Machine.execSub rd rs rt s
  | .subu rd rs rt => Sys2Proof.Machine.execSubu rd rs rt s
  | .and rd rs rt => Sys2Proof.Machine.execAnd rd rs rt s
  | .or rd rs rt => Sys2Proof.Machine.execOr rd rs rt s
  | .xor rd rs rt => Sys2Proof.Machine.execXor rd rs rt s
  | .nor rd rs rt => Sys2Proof.Machine.execNor rd rs rt s
  | .slt rd rs rt => Sys2Proof.Machine.execSlt rd rs rt s
  | .sltu rd rs rt => Sys2Proof.Machine.execSltu rd rs rt s
  -- Shifts (40_alu.md)
  | .sll rd rt shamt => Sys2Proof.Machine.execSll rd rt shamt s
  | .srl rd rt shamt => Sys2Proof.Machine.execSrl rd rt shamt s
  | .sra rd rt shamt => Sys2Proof.Machine.execSra rd rt shamt s
  | .sllv rd rt rs => Sys2Proof.Machine.execSllv rd rt rs s
  | .srlv rd rt rs => Sys2Proof.Machine.execSrlv rd rt rs s
  | .srav rd rt rs => Sys2Proof.Machine.execSrav rd rt rs s
  -- ALU, immediate forms (40_alu.md)
  | .addi rt rs imm16 => Sys2Proof.Machine.execAddi rt rs imm16 s
  | .addiu rt rs imm16 => Sys2Proof.Machine.execAddiu rt rs imm16 s
  | .slti rt rs imm16 => Sys2Proof.Machine.execSlti rt rs imm16 s
  | .sltiu rt rs imm16 => Sys2Proof.Machine.execSltiu rt rs imm16 s
  | .andi rt rs imm16 => Sys2Proof.Machine.execAndi rt rs imm16 s
  | .ori rt rs imm16 => Sys2Proof.Machine.execOri rt rs imm16 s
  | .xori rt rs imm16 => Sys2Proof.Machine.execXori rt rs imm16 s
  | .lui rt imm16 => Sys2Proof.Machine.execLui rt imm16 s
  -- Multiply, divide, HI and LO (41_muldiv.md)
  | .mult rs rt => Sys2Proof.Machine.execMult rs rt s
  | .multu rs rt => Sys2Proof.Machine.execMultu rs rt s
  | .div rs rt => Sys2Proof.Machine.execDiv rs rt s
  | .divu rs rt => Sys2Proof.Machine.execDivu rs rt s
  | .mfhi rd => Sys2Proof.Machine.execMfhi rd s
  | .mthi rs => Sys2Proof.Machine.execMthi rs s
  | .mflo rd => Sys2Proof.Machine.execMflo rd s
  | .mtlo rs => Sys2Proof.Machine.execMtlo rs s
  -- Jumps and branches (42_branch.md)
  | .j target26 => Sys2Proof.Machine.execJ target26 s
  | .jal target26 => Sys2Proof.Machine.execJal target26 s
  | .jr rs => Sys2Proof.Machine.execJr rs s
  | .jalr rd rs => Sys2Proof.Machine.execJalr rd rs s
  | .beq rs rt imm16 => Sys2Proof.Machine.execBeq rs rt imm16 s
  | .bne rs rt imm16 => Sys2Proof.Machine.execBne rs rt imm16 s
  | .blez rs imm16 => Sys2Proof.Machine.execBlez rs imm16 s
  | .bgtz rs imm16 => Sys2Proof.Machine.execBgtz rs imm16 s
  | .bltz rs imm16 => Sys2Proof.Machine.execBltz rs imm16 s
  | .bgez rs imm16 => Sys2Proof.Machine.execBgez rs imm16 s
  | .bltzal rs imm16 => Sys2Proof.Machine.execBltzal rs imm16 s
  | .bgezal rs imm16 => Sys2Proof.Machine.execBgezal rs imm16 s
  -- Loads and stores (43_loadstore.md)
  | .lb rt rs imm16 => Sys2Proof.Machine.execLb rt rs imm16 s
  | .lbu rt rs imm16 => Sys2Proof.Machine.execLbu rt rs imm16 s
  | .lh rt rs imm16 => Sys2Proof.Machine.execLh rt rs imm16 s
  | .lhu rt rs imm16 => Sys2Proof.Machine.execLhu rt rs imm16 s
  | .lw rt rs imm16 => Sys2Proof.Machine.execLw rt rs imm16 s
  | .lwl rt rs imm16 => Sys2Proof.Machine.execLwl rt rs imm16 s
  | .lwr rt rs imm16 => Sys2Proof.Machine.execLwr rt rs imm16 s
  | .sb rt rs imm16 => Sys2Proof.Machine.execSb rt rs imm16 s
  | .sh rt rs imm16 => Sys2Proof.Machine.execSh rt rs imm16 s
  | .sw rt rs imm16 => Sys2Proof.Machine.execSw rt rs imm16 s
  | .swl rt rs imm16 => Sys2Proof.Machine.execSwl rt rs imm16 s
  | .swr rt rs imm16 => Sys2Proof.Machine.execSwr rt rs imm16 s
  -- System calls and coprocessor 0 (44_system_cop.md)
  | .syscall code20 => Sys2Proof.Machine.execSyscall code20 s
  | .breakpoint code20 => Sys2Proof.Machine.execBreakpoint code20 s
  | .mfc0 rt rd => Sys2Proof.Machine.execMfc0 rt rd s
  | .cfc0 rt rd => Sys2Proof.Machine.execCfc0 rt rd s
  | .mtc0 rt rd => Sys2Proof.Machine.execMtc0 rt rd s
  | .ctc0 rt rd => Sys2Proof.Machine.execCtc0 rt rd s
  | .rfe => Sys2Proof.Machine.execRfe s
  | .lwc0 rt rs imm16 => Sys2Proof.Machine.execLwc0 rt rs imm16 s
  | .swc0 rt rs imm16 => Sys2Proof.Machine.execSwc0 rt rs imm16 s
  -- Coprocessor 2 (44_system_cop.md)
  | .mfc2 rt rd => Sys2Proof.Machine.execMfc2 rt rd s
  | .cfc2 rt rd => Sys2Proof.Machine.execCfc2 rt rd s
  | .mtc2 rt rd => Sys2Proof.Machine.execMtc2 rt rd s
  | .ctc2 rt rd => Sys2Proof.Machine.execCtc2 rt rd s
  | .cop2 imm25 => Sys2Proof.Machine.execCop2 imm25 s
  | .lwc2 rt rs imm16 => Sys2Proof.Machine.execLwc2 rt rs imm16 s
  | .swc2 rt rs imm16 => Sys2Proof.Machine.execSwc2 rt rs imm16 s
  -- Absent coprocessors (44_system_cop.md R578)
  | .cop1 => Sys2Proof.Machine.execCop1 s
  | .cop3 => Sys2Proof.Machine.execCop3 s
  | .lwc1 => Sys2Proof.Machine.execLwc1 s
  | .lwc3 => Sys2Proof.Machine.execLwc3 s
  | .swc1 => Sys2Proof.Machine.execSwc1 s
  | .swc3 => Sys2Proof.Machine.execSwc3 s

end Sys2Proof.Machine
end

