-- ==== Sys2Proof/Machine/Step.lean ====
section
/-! DEFINITION. One step: the tick (spec 60_exceptions.md R630) followed by the environment step
(70_reset_and_hazards.md R752). -/

namespace Sys2Proof.Machine

/-- `Execute(current_instruction)`: decode, raise RI for a reserved word, else run the instruction's meaning
(R634 (c)). -/
def execute (s : State) : Result :=
  match decode s.currentInstruction with
  | .instr i => exec i s
  | .reserved why => execReserved why s

/-- Steps 3 to 6 of the tick: an interrupt or a fetch fault replaces the instruction, else it executes (R634,
R635). -/
def selectAndExecute (s : State) : Result :=
  match pendingException s with
  | some e => raise e s
  | none => execute s

/-- The machine's step: `Tick()` then the environment step (R630, R752). -/
def step (s : State) : Host.Outcome State Fault Refusal := finishStep (selectAndExecute (beginTick s))

/-- The word `w` where the next tick takes its instruction from: the prefetch latch, with no fetch fault (R631). The
latch's address and everything else stay. This stands for a program word loaded from outside; log 11. -/
def State.withFetchWord (s : State) (nbits w : Nat) : State :=
  { s with nextInstruction := BitVec.ofNat 32 (w % 2 ^ nbits), nextInstructionFault := .none }

end Sys2Proof.Machine
end

