-- ==== Sys2Proof/Safety.lean ====
section
/-! DEFINITION. The terms in which claims are made: what is left unchanged, what a register write and a stored range
of bytes look like, when a data access is permitted, and the invariant of the machine. -/

namespace Sys2Proof.Machine

/-! ## What stays the same -/

/-- Every general register keeps all three stages. -/
def SameGprs (s t : State) : Prop := t.s1 = s.s1 ∧ t.s2 = s.s2 ∧ t.s3 = s.s3

/-- Every general register that `changed` does not name keeps all three stages. -/
def GprsSameBut (changed : RegIdx → Prop) (s t : State) : Prop :=
  ∀ r, ¬ changed r → slot t.s1 r = slot s.s1 r ∧ slot t.s2 r = slot s.s2 r ∧ slot t.s3 r = slot s.s3 r

/-- HI and LO. -/
def SameHiLo (s t : State) : Prop := t.hi = s.hi ∧ t.lo = s.lo

/-- The executing instruction and the prefetch latch. -/
def SamePipeline (s t : State) : Prop :=
  t.currentPc = s.currentPc ∧ t.currentInstruction = s.currentInstruction ∧ t.currentFault = s.currentFault
    ∧ t.nextInstruction = s.nextInstruction ∧ t.nextInstructionPc = s.nextInstructionPc
    ∧ t.nextInstructionFault = s.nextInstructionFault ∧ t.inDelaySlot = s.inDelaySlot

/-- The address of the next fetch and the mark of a taken transfer. -/
def SameTransfer (s t : State) : Prop := t.nextPc = s.nextPc ∧ t.branchTaken = s.branchTaken

/-- Every CP0 register. -/
def SameCp0 (s t : State) : Prop := ∀ n, t.cp0Reg n = s.cp0Reg n

/-- Every CP0 register that `changed` does not name. -/
def Cp0SameBut (changed : RegIdx → Prop) (s t : State) : Prop := ∀ n, ¬ changed n → t.cp0Reg n = s.cp0Reg n

/-- I_STAT and I_MASK. -/
def SameInterrupts (s t : State) : Prop := t.iStat = s.iStat ∧ t.iMask = s.iMask

/-- Every byte of storage. -/
def SameMemory (s t : State) : Prop := ∀ loc, t.mem.read loc = s.mem.read loc

/-- Nothing sent to or asked of an external agent; claims and coming environment actions as they were. -/
def SameAgents (s t : State) : Prop :=
  t.events = s.events ∧ t.draws = s.draws ∧ t.ioClaims = s.ioClaims ∧ t.env = s.env

/-- Claims and coming environment actions, when an external agent did see something. -/
def SameParameters (s t : State) : Prop := t.ioClaims = s.ioClaims ∧ t.env = s.env

/-! ## What changes -/

/-- `r` names a register that a write changes: register 0 discards it (10_state.md R54). -/
def IsDest (r : RegIdx) : RegIdx → Prop := fun q => q = r ∧ r ≠ 0#5

/-- An immediate write of `v` to register `r`: all three stages, and no other register (10_state.md R53, R54). -/
def GprWritten (r : RegIdx) (v : Word) (s t : State) : Prop :=
  (r ≠ 0#5 → slot t.s1 r = v ∧ slot t.s2 r = v ∧ slot t.s3 r = v) ∧ GprsSameBut (IsDest r) s t

/-- A delayed-load write of `v` to register `r`: stage S1 only, and no other register (10_state.md R53, R54). -/
def GprLoaded (r : RegIdx) (v : Word) (s t : State) : Prop :=
  (r ≠ 0#5 → slot t.s1 r = v) ∧ (∀ q, ¬ IsDest r q → slot t.s1 q = slot s.s1 q) ∧ t.s2 = s.s2 ∧ t.s3 = s.s3

/-- Byte `j` of a word, 0 the least significant (20_memory.md R163). -/
def byteOf (v : Word) (j : Nat) : Byte := v.extractLsb' (8 * j) 8

/-- Storage after the low `n` bytes of `v` are stored from `loc` up: those bytes little-endian, every other byte as
before (20_memory.md R163). -/
def BytesStored (loc n : Nat) (v : Word) (s t : State) : Prop :=
  ∀ a, t.mem.read a = if loc ≤ a ∧ a < loc + n then byteOf v (a - loc) else s.mem.read a

/-- Only general registers may differ, as `gprs` says. -/
def OnlyGprs (gprs : State → State → Prop) (s t : State) : Prop :=
  gprs s t ∧ SameHiLo s t ∧ SamePipeline s t ∧ SameTransfer s t ∧ SameCp0 s t ∧ SameInterrupts s t
    ∧ SameMemory s t ∧ SameAgents s t

/-- Only HI and LO may differ. -/
def OnlyHiLo (s t : State) : Prop :=
  SameGprs s t ∧ SamePipeline s t ∧ SameTransfer s t ∧ SameCp0 s t ∧ SameInterrupts s t ∧ SameMemory s t
    ∧ SameAgents s t

/-- Only the next fetch, the mark of a transfer and general registers may differ, the latter as `gprs` says. -/
def OnlyTransfer (gprs : State → State → Prop) (s t : State) : Prop :=
  gprs s t ∧ SameHiLo s t ∧ SamePipeline s t ∧ SameCp0 s t ∧ SameInterrupts s t ∧ SameMemory s t ∧ SameAgents s t

/-- Only storage may differ, as `mem` says. -/
def OnlyMemory (mem : State → State → Prop) (s t : State) : Prop :=
  mem s t ∧ SameGprs s t ∧ SameHiLo s t ∧ SamePipeline s t ∧ SameTransfer s t ∧ SameCp0 s t ∧ SameInterrupts s t
    ∧ SameAgents s t

/-- Only CP0 may differ, as `cp0` says. -/
def OnlyCp0 (cp0 : State → State → Prop) (s t : State) : Prop :=
  cp0 s t ∧ SameGprs s t ∧ SameHiLo s t ∧ SamePipeline s t ∧ SameTransfer s t ∧ SameInterrupts s t
    ∧ SameMemory s t ∧ SameAgents s t

/-- Only the record of external agents and the draw counter may differ. -/
def OnlyAgents (s t : State) : Prop :=
  SameGprs s t ∧ SameHiLo s t ∧ SamePipeline s t ∧ SameTransfer s t ∧ SameCp0 s t ∧ SameInterrupts s t
    ∧ SameMemory s t ∧ SameParameters s t

/-- A conditional branch that does as R456 of 42_branch.md says: the target and the mark of the delay slot when `c`
holds, else neither. -/
def BranchOutcome (c : Prop) [Decidable c] (imm16 : BitVec 16) (s t : State) : Prop :=
  if c then t.nextPc = s.nextPc + (imm16.signExtend 32 <<< 2) - 4#32 ∧ t.branchTaken = true
  else SameTransfer s t

/-! ## Permitted accesses -/

/-- The address is aligned to the width and not forbidden to the mode (20_memory.md R165, R166, R168). -/
abbrev Permitted (s : State) (addr : Word) (w : Width) : Prop :=
  addr.toNat % w.bytes = 0 ∧ ¬ (srKUc s.sr = true ∧ addr.msb = true)

/-- The access reaches the bus at this target: permitted, not isolated, and answered (20_memory.md R165, R166). -/
abbrev Reaches (s : State) (addr : Word) (w : Width) (tgt : Target) : Prop :=
  Permitted s addr w ∧ srIsC s.sr = false ∧ route s.ioClaims addr = some tgt

/-- A word stored at `w`, run as its instruction: the word decodes to `i`, and `i` completes in a state of which
`post` holds. -/
def Runs (w : Word) (i : Instr) (s : State) (post : State → Prop) : Prop :=
  decode w = .instr i ∧ ∃ t, exec i s = .next t ∧ post t

/-- The same, in exactly the state `t`. -/
def RunsTo (w : Word) (i : Instr) (s t : State) : Prop := decode w = .instr i ∧ exec i s = .next t

/-- What an access does when it is not let through to the bus: the address error, nothing under isolation, or DBE, in
that order, and in each case the machine is otherwise as before (20_memory.md R165, R166; 43_loadstore.md R502). -/
def StopsAs (err : Exc) (addr : Word) (wd : Width) (w : Word) (i : Instr) (s : State) : Prop :=
  (¬ Permitted s addr wd → RunsTo w i s (enterException err s))
    ∧ (Permitted s addr wd ∧ srIsC s.sr = true → RunsTo w i s s)
    ∧ (Permitted s addr wd ∧ srIsC s.sr = false ∧ route s.ioClaims addr = none →
        RunsTo w i s (enterException .dbe s))

/-- `count` byte stores from byte `first` of the aligned word at `tgt` up, in ascending order, byte `j` of them being
`byteAt j` (43_loadstore.md R513, R514; 20_memory.md R156, R158 to R160). -/
def StoresBytes (tgt : Target) (first count : Nat) (byteAt : Nat → Byte) (s t : State) : Prop :=
  match tgt with
  | .storage loc =>
    OnlyMemory (fun s t => ∀ a, t.mem.read a =
      if loc + first ≤ a ∧ a < loc + first + count then byteAt (a - loc - first) else s.mem.read a) s t
  | .rom _ => t = s
  | .interrupts k => t = (List.range count).foldl (fun u j => writeInterruptByte u (k + first + j) (byteAt j)) s
  | .device d p =>
    t.events = s.events ++ (List.range count).map
        (fun j => .deviceWrite d (p + first + j) 1 ((byteAt j).setWidth 32))
      ∧ t.draws = s.draws ∧ OnlyAgents s t

/-- Coprocessor 0 may be used: kernel mode, or SR.CU0 (44_system_cop.md R562). -/
abbrev Cop0Usable (s : State) : Prop := srKUc s.sr = false ∨ srCu0 s.sr = true

/-- The state after coprocessor 2 has answered a read of register `i` with a free value: the operation recorded, the
draw counted (44_system_cop.md R570). `e` is the operation. -/
def afterCop2Read (e : Word → ExternalEvent) (s : State) : State :=
  { s with events := s.events ++ [e (Config.cop2Answer s.draws)], draws := s.draws + 1 }

/-- An operation that coprocessor 2 was sent, and nothing else. -/
def afterCop2 (e : ExternalEvent) (s : State) : State := { s with events := s.events ++ [e] }

/-- Every register to which 70_reset_and_hazards.md R731 gives a reset value holds it: the three stages of the general
registers, the executing instruction, the latch after `Redirect(0xBFC00000)` (R732), the delay-slot marks, SR, PRId,
I_STAT and I_MASK. Nothing is said of what R731 leaves unspecified, nor of storage. -/
abbrev ResetRegisters (s : State) : Prop :=
  (∀ r : RegIdx, slot s.s1 r = 0#32 ∧ slot s.s2 r = 0#32 ∧ slot s.s3 r = 0#32)
    ∧ s.currentPc = 0#32 ∧ s.currentInstruction = 0#32 ∧ s.currentFault = .none
    ∧ s.nextInstruction = 0#32 ∧ s.nextInstructionPc = 0xBFBFFFFC#32 ∧ s.nextInstructionFault = .none
    ∧ s.nextPc = 0xBFC00000#32 ∧ s.inDelaySlot = false ∧ s.branchTaken = false
    ∧ s.sr = 0x00400000#32 ∧ s.cp0Reg 15#5 = 0x00000002#32 ∧ s.iStat = 0#11 ∧ s.iMask = 0#11

/-! ## The invariant -/

/-- What every step keeps. The memory is canonical and lists storage only; slot 0 of every stage is zero (10_state.md
R54); between ticks no instruction is in a delay slot (R65); a faulting latch holds the word 0 (20_memory.md R167)
and a misaligned latch address carries AdEL (10_state.md R63); without a taken transfer the next fetch follows the
latch (R62). -/
abbrev State.Inv (s : State) : Prop :=
  s.mem.wf ∧ (∀ c ∈ s.mem, isStorage c.1 = true)
    ∧ slot s.s1 0#5 = 0#32 ∧ slot s.s2 0#5 = 0#32 ∧ slot s.s3 0#5 = 0#32
    ∧ s.inDelaySlot = false
    ∧ (s.nextInstructionFault ≠ .none → s.nextInstruction = 0#32)
    ∧ (s.nextInstructionPc.toNat % 4 ≠ 0 → s.nextInstructionFault = .adEL)
    ∧ (s.branchTaken = false → s.nextPc = s.nextInstructionPc + 4#32)

end Sys2Proof.Machine
end

