-- ==== Sys2Proof/Certificates/Slice0/Obligations.lean ====
section
/-! DEFINITION. The statements about the PSX CPU core. Each docstring names the rules of spec/ it formalises. The
words `Runs`, `OnlyGprs`, `Reaches`, ... are of Sys2Proof/Safety.lean; `rWord`, `iWord`, ... lay out the fields of
30_encoding.md R251 to R254, and the fields a clause leaves as variables of no operand are the ignored ones of R260. -/

open Sys2Proof Sys2Proof.Machine

/-! ## Encoding -/

/-- Decoding the word of an instruction gives the instruction back, with every operand at every value. -/
def Obligations.DecodeOfEncodeIsTheInstruction : Prop := ∀ i : Instr, decode (encode i) = .instr i

/-- Encoding a decoded word gives the word with its ignored bits (R260) cleared: no bit the decoder reads is lost. -/
def Obligations.EncodeOfDecodedWordClearsIgnoredBits : Prop :=
  ∀ (w : Word) (i : Instr), decode w = .instr i → encode i = w &&& usedBits i

/-- The decoder rejects exactly the reserved encodings of R261, which `reservedWord` lists from the rule's own text. -/
def Obligations.DecodeRejectsExactlyReservedWords : Prop :=
  ∀ w : Word, (∃ why, decode w = .reserved why) ↔ reservedWord w = true

/-- Words written out from the spec's own examples decode to the instruction each stands for. -/
def Obligations.WrittenWordsDecode : Prop :=
  decode 0x00221820#32 = .instr (.add 3#5 1#5 2#5)
    ∧ decode 0x00011100#32 = .instr (.sll 2#5 1#5 4#5)
    ∧ decode 0x2422FFFF#32 = .instr (.addiu 2#5 1#5 0xFFFF#16)
    ∧ decode 0x0022001A#32 = .instr (.div 1#5 2#5)
    ∧ decode 0x0C004040#32 = .instr (.jal 0x0004040#26)
    ∧ decode 0x04300002#32 = .instr (.bltzal 1#5 2#16)
    ∧ decode 0x8C22FFFC#32 = .instr (.lw 2#5 1#5 0xFFFC#16)
    ∧ decode 0xB8220001#32 = .instr (.swr 2#5 1#5 1#16)
    ∧ decode 0x03FFFFCC#32 = .instr (.syscall 0xFFFFF#20)
    ∧ decode 0x40816000#32 = .instr (.mtc0 1#5 12#5)
    ∧ decode 0x42000010#32 = .instr .rfe
    ∧ decode 0x4A180001#32 = .instr (.cop2 0x0180001#25)
    ∧ decode 0xCC000000#32 = .instr .lwc3

/-- Four bytes decode as the little-endian word they make, and fewer than four are rejected (R250, 20_memory.md
R163). -/
def Obligations.BytesDecodeAsLittleEndianWord : Prop :=
  (∀ (w : Word) (rest : List Byte),
    decodeBytes (byteOf w 0 :: byteOf w 1 :: byteOf w 2 :: byteOf w 3 :: rest)
      = match decode w with
        | .instr i => .ok (i, rest)
        | .reserved why => .error (.reserved why))
    ∧ ∀ bs : List Byte, bs.length < 4 → decodeBytes bs = .error .truncated

/-! ## ALU, shifts, immediates (40_alu.md) -/

/-- R303, R305 to R311: the register forms that never trap. -/
def Obligations.RegisterAluResults : Prop :=
  ∀ (rd rs rt : RegIdx) (shamt : BitVec 5) (s : State),
    Runs (rWord 0x00#6 rs rt rd shamt 0x21#6) (.addu rd rs rt) s
        (OnlyGprs (GprWritten rd (s.x rs + s.x rt)) s)
      ∧ Runs (rWord 0x00#6 rs rt rd shamt 0x23#6) (.subu rd rs rt) s
        (OnlyGprs (GprWritten rd (s.x rs - s.x rt)) s)
      ∧ Runs (rWord 0x00#6 rs rt rd shamt 0x24#6) (.and rd rs rt) s
        (OnlyGprs (GprWritten rd (s.x rs &&& s.x rt)) s)
      ∧ Runs (rWord 0x00#6 rs rt rd shamt 0x25#6) (.or rd rs rt) s
        (OnlyGprs (GprWritten rd (s.x rs ||| s.x rt)) s)
      ∧ Runs (rWord 0x00#6 rs rt rd shamt 0x26#6) (.xor rd rs rt) s
        (OnlyGprs (GprWritten rd (s.x rs ^^^ s.x rt)) s)
      ∧ Runs (rWord 0x00#6 rs rt rd shamt 0x27#6) (.nor rd rs rt) s
        (OnlyGprs (GprWritten rd (~~~(s.x rs ||| s.x rt))) s)
      ∧ Runs (rWord 0x00#6 rs rt rd shamt 0x2A#6) (.slt rd rs rt) s
        (OnlyGprs (GprWritten rd (if (s.x rs).toInt < (s.x rt).toInt then 1#32 else 0#32)) s)
      ∧ Runs (rWord 0x00#6 rs rt rd shamt 0x2B#6) (.sltu rd rs rt) s
        (OnlyGprs (GprWritten rd (if (s.x rs).toNat < (s.x rt).toNat then 1#32 else 0#32)) s)

/-- R301, R302, R304, R318: ADD, SUB and ADDI raise Ov exactly when the operand and result signs say so, and then
write nothing but the exception entry; else they write the sum or difference. -/
def Obligations.TrappingArithmetic : Prop :=
  ∀ (rd rs rt : RegIdx) (shamt : BitVec 5) (imm16 : BitVec 16) (s : State),
    (if (s.x rs).msb = (s.x rt).msb ∧ (s.x rs + s.x rt).msb ≠ (s.x rs).msb then
        RunsTo (rWord 0x00#6 rs rt rd shamt 0x20#6) (.add rd rs rt) s (enterException .ov s)
      else Runs (rWord 0x00#6 rs rt rd shamt 0x20#6) (.add rd rs rt) s
        (OnlyGprs (GprWritten rd (s.x rs + s.x rt)) s))
      ∧ (if (s.x rs).msb ≠ (s.x rt).msb ∧ (s.x rs - s.x rt).msb ≠ (s.x rs).msb then
          RunsTo (rWord 0x00#6 rs rt rd shamt 0x22#6) (.sub rd rs rt) s (enterException .ov s)
        else Runs (rWord 0x00#6 rs rt rd shamt 0x22#6) (.sub rd rs rt) s
          (OnlyGprs (GprWritten rd (s.x rs - s.x rt)) s))
      ∧ (if (s.x rs).msb = (imm16.signExtend 32).msb
            ∧ (s.x rs + imm16.signExtend 32).msb ≠ (s.x rs).msb then
          RunsTo (iWord 0x08#6 rs rt imm16) (.addi rt rs imm16) s (enterException .ov s)
        else Runs (iWord 0x08#6 rs rt imm16) (.addi rt rs imm16) s
          (OnlyGprs (GprWritten rt (s.x rs + imm16.signExtend 32)) s))

/-- R301 read as numbers: the sign rule is exactly that the signed sum or difference does not fit in 32 bits, so what
ADD, SUB and ADDI write without a trap is the exact signed result. -/
def Obligations.OverflowIsSignedResultOutOfRange : Prop :=
  ∀ a b : Word,
    (overflowAdd a b = true ↔ ¬ (-2147483648 ≤ a.toInt + b.toInt ∧ a.toInt + b.toInt ≤ 2147483647))
      ∧ (overflowSub a b = true ↔ ¬ (-2147483648 ≤ a.toInt - b.toInt ∧ a.toInt - b.toInt ≤ 2147483647))
      ∧ (overflowAdd a b = false → (a + b).toInt = a.toInt + b.toInt)
      ∧ (overflowSub a b = false → (a - b).toInt = a.toInt - b.toInt)

/-- R312 to R317, on numbers: a left shift multiplies mod 2^32, a logical right shift divides the unsigned value, an
arithmetic one divides the signed value rounding down; the variable forms use the low five bits of `rs`. -/
def Obligations.ShiftResults : Prop :=
  ∀ (rd rs rt : RegIdx) (shamt : BitVec 5) (s : State),
    Runs (rWord 0x00#6 rs rt rd shamt 0x00#6) (.sll rd rt shamt) s
        (OnlyGprs (GprWritten rd (BitVec.ofNat 32 ((s.x rt).toNat * 2 ^ shamt.toNat))) s)
      ∧ Runs (rWord 0x00#6 rs rt rd shamt 0x02#6) (.srl rd rt shamt) s
        (OnlyGprs (GprWritten rd (BitVec.ofNat 32 ((s.x rt).toNat / 2 ^ shamt.toNat))) s)
      ∧ Runs (rWord 0x00#6 rs rt rd shamt 0x03#6) (.sra rd rt shamt) s
        (OnlyGprs (GprWritten rd (BitVec.ofInt 32 ((s.x rt).toInt / 2 ^ shamt.toNat))) s)
      ∧ Runs (rWord 0x00#6 rs rt rd shamt 0x04#6) (.sllv rd rt rs) s
        (OnlyGprs (GprWritten rd (BitVec.ofNat 32 ((s.x rt).toNat * 2 ^ ((s.x rs).toNat % 32)))) s)
      ∧ Runs (rWord 0x00#6 rs rt rd shamt 0x06#6) (.srlv rd rt rs) s
        (OnlyGprs (GprWritten rd (BitVec.ofNat 32 ((s.x rt).toNat / 2 ^ ((s.x rs).toNat % 32)))) s)
      ∧ Runs (rWord 0x00#6 rs rt rd shamt 0x07#6) (.srav rd rt rs) s
        (OnlyGprs (GprWritten rd (BitVec.ofInt 32 ((s.x rt).toInt / 2 ^ ((s.x rs).toNat % 32)))) s)

/-- R319 to R325: the immediate forms that never trap. -/
def Obligations.ImmediateResults : Prop :=
  ∀ (rt rs : RegIdx) (imm16 : BitVec 16) (s : State),
    Runs (iWord 0x09#6 rs rt imm16) (.addiu rt rs imm16) s
        (OnlyGprs (GprWritten rt (s.x rs + imm16.signExtend 32)) s)
      ∧ Runs (iWord 0x0A#6 rs rt imm16) (.slti rt rs imm16) s
        (OnlyGprs (GprWritten rt (if (s.x rs).toInt < imm16.toInt then 1#32 else 0#32)) s)
      ∧ Runs (iWord 0x0B#6 rs rt imm16) (.sltiu rt rs imm16) s
        (OnlyGprs (GprWritten rt
          (if (s.x rs).toNat < (imm16.signExtend 32).toNat then 1#32 else 0#32)) s)
      ∧ Runs (iWord 0x0C#6 rs rt imm16) (.andi rt rs imm16) s
        (OnlyGprs (GprWritten rt (s.x rs &&& (0#16 ++ imm16))) s)
      ∧ Runs (iWord 0x0D#6 rs rt imm16) (.ori rt rs imm16) s
        (OnlyGprs (GprWritten rt (s.x rs ||| (0#16 ++ imm16))) s)
      ∧ Runs (iWord 0x0E#6 rs rt imm16) (.xori rt rs imm16) s
        (OnlyGprs (GprWritten rt (s.x rs ^^^ (0#16 ++ imm16))) s)
      ∧ Runs (iWord 0x0F#6 rs rt imm16) (.lui rt imm16) s
        (OnlyGprs (GprWritten rt (imm16 ++ 0#16)) s)

/-! ## Multiply, divide, HI and LO (41_muldiv.md) -/

/-- R401, R402: HI and LO together are the exact 64-bit product, signed or unsigned. -/
def Obligations.ProductsFillHiLo : Prop :=
  ∀ (rs rt rd : RegIdx) (shamt : BitVec 5) (s : State),
    Runs (rWord 0x00#6 rs rt rd shamt 0x18#6) (.mult rs rt) s
        (fun t => (t.hi ++ t.lo).toInt = (s.x rs).toInt * (s.x rt).toInt ∧ OnlyHiLo s t)
      ∧ Runs (rWord 0x00#6 rs rt rd shamt 0x19#6) (.multu rs rt) s
        (fun t => (t.hi ++ t.lo).toNat = (s.x rs).toNat * (s.x rt).toNat ∧ OnlyHiLo s t)

/-- R403: DIV, with the fixed results of a zero divisor and of the overflow case, else the truncated quotient and the
remainder with the dividend's sign. It never traps. -/
def Obligations.SignedDivision : Prop :=
  ∀ (rs rt rd : RegIdx) (shamt : BitVec 5) (s : State),
    Runs (rWord 0x00#6 rs rt rd shamt 0x1A#6) (.div rs rt) s fun t =>
      OnlyHiLo s t ∧
      (if s.x rt = 0#32 then
        t.hi = s.x rs ∧ t.lo = (if 0 ≤ (s.x rs).toInt then 0xFFFFFFFF#32 else 0x00000001#32)
      else if s.x rs = 0x80000000#32 ∧ s.x rt = 0xFFFFFFFF#32 then
        t.hi = 0x00000000#32 ∧ t.lo = 0x80000000#32
      else
        t.lo.toInt = (s.x rs).toInt.tdiv (s.x rt).toInt ∧ t.hi.toInt = (s.x rs).toInt.tmod (s.x rt).toInt)

/-- R404: DIVU, with the fixed result of a zero divisor. It never traps. -/
def Obligations.UnsignedDivision : Prop :=
  ∀ (rs rt rd : RegIdx) (shamt : BitVec 5) (s : State),
    Runs (rWord 0x00#6 rs rt rd shamt 0x1B#6) (.divu rs rt) s fun t =>
      OnlyHiLo s t ∧
      (if s.x rt = 0#32 then t.hi = s.x rs ∧ t.lo = 0xFFFFFFFF#32
      else t.lo.toNat = (s.x rs).toNat / (s.x rt).toNat ∧ t.hi.toNat = (s.x rs).toNat % (s.x rt).toNat)

/-- R405 to R408: the HI and LO moves. -/
def Obligations.HiLoMoves : Prop :=
  ∀ (rs rt rd : RegIdx) (shamt : BitVec 5) (s : State),
    Runs (rWord 0x00#6 rs rt rd shamt 0x10#6) (.mfhi rd) s (OnlyGprs (GprWritten rd s.hi) s)
      ∧ Runs (rWord 0x00#6 rs rt rd shamt 0x12#6) (.mflo rd) s (OnlyGprs (GprWritten rd s.lo) s)
      ∧ Runs (rWord 0x00#6 rs rt rd shamt 0x11#6) (.mthi rs) s
        (fun t => t.hi = s.x rs ∧ t.lo = s.lo ∧ OnlyHiLo s t)
      ∧ Runs (rWord 0x00#6 rs rt rd shamt 0x13#6) (.mtlo rs) s
        (fun t => t.lo = s.x rs ∧ t.hi = s.hi ∧ OnlyHiLo s t)

/-! ## Jumps and branches (42_branch.md) -/

/-- R452 to R455: the jumps. The target's low 28 bits are `target26 << 2` and its top four those of `np`; JALR reads
its target before it writes the link. -/
def Obligations.JumpResults : Prop :=
  ∀ (target26 : BitVec 26) (rd rs rt : RegIdx) (shamt : BitVec 5) (s : State),
    Runs (jWord 0x02#6 target26) (.j target26) s
        (fun t => t.nextPc = s.nextPc.extractLsb' 28 4 ++ target26 ++ 0#2 ∧ t.branchTaken = true
          ∧ OnlyTransfer SameGprs s t)
      ∧ Runs (jWord 0x03#6 target26) (.jal target26) s
        (fun t => t.nextPc = s.nextPc.extractLsb' 28 4 ++ target26 ++ 0#2 ∧ t.branchTaken = true
          ∧ OnlyTransfer (GprWritten 31#5 s.nextPc) s t)
      ∧ Runs (rWord 0x00#6 rs rt rd shamt 0x08#6) (.jr rs) s
        (fun t => t.nextPc = s.x rs ∧ t.branchTaken = true ∧ OnlyTransfer SameGprs s t)
      ∧ Runs (rWord 0x00#6 rs rt rd shamt 0x09#6) (.jalr rd rs) s
        (fun t => t.nextPc = s.x rs ∧ t.branchTaken = true ∧ OnlyTransfer (GprWritten rd s.nextPc) s t)

/-- R457 to R461, R464 with R456: the conditional branches. -/
def Obligations.BranchResults : Prop :=
  ∀ (rs rt : RegIdx) (imm16 : BitVec 16) (s : State),
    Runs (iWord 0x04#6 rs rt imm16) (.beq rs rt imm16) s
        (fun t => BranchOutcome (s.x rs = s.x rt) imm16 s t ∧ OnlyTransfer SameGprs s t)
      ∧ Runs (iWord 0x05#6 rs rt imm16) (.bne rs rt imm16) s
        (fun t => BranchOutcome (s.x rs ≠ s.x rt) imm16 s t ∧ OnlyTransfer SameGprs s t)
      ∧ Runs (iWord 0x06#6 rs rt imm16) (.blez rs imm16) s
        (fun t => BranchOutcome ((s.x rs).toInt ≤ 0) imm16 s t ∧ OnlyTransfer SameGprs s t)
      ∧ Runs (iWord 0x07#6 rs rt imm16) (.bgtz rs imm16) s
        (fun t => BranchOutcome (0 < (s.x rs).toInt) imm16 s t ∧ OnlyTransfer SameGprs s t)
      ∧ Runs (iWord 0x01#6 rs 0x00#5 imm16) (.bltz rs imm16) s
        (fun t => BranchOutcome ((s.x rs).toInt < 0) imm16 s t ∧ OnlyTransfer SameGprs s t)
      ∧ Runs (iWord 0x01#6 rs 0x01#5 imm16) (.bgez rs imm16) s
        (fun t => BranchOutcome (0 ≤ (s.x rs).toInt) imm16 s t ∧ OnlyTransfer SameGprs s t)

/-- R462, R463: the branches with link. The link is written whether or not the branch is taken, and the condition is
that of the register before the link. -/
def Obligations.BranchAndLinkResults : Prop :=
  ∀ (rs : RegIdx) (imm16 : BitVec 16) (s : State),
    Runs (iWord 0x01#6 rs 0x10#5 imm16) (.bltzal rs imm16) s
        (fun t => BranchOutcome ((s.x rs).toInt < 0) imm16 s t ∧ OnlyTransfer (GprWritten 31#5 s.nextPc) s t)
      ∧ Runs (iWord 0x01#6 rs 0x11#5 imm16) (.bgezal rs imm16) s
        (fun t => BranchOutcome (0 ≤ (s.x rs).toInt) imm16 s t ∧ OnlyTransfer (GprWritten 31#5 s.nextPc) s t)

/-! ## The bus (20_memory.md) -/

/-- R151 to R153, R157, R158, R161, R162: where every address goes. `p` is the offset within a physical segment. -/
def Obligations.AddressMap : Prop :=
  ∀ (claims : List IoClaim) (addr : Word) (p : Nat),
    (addr.toNat = p ∧ p < 0x80000000
        ∨ addr.toNat = 0x80000000 + p ∧ p < 0x20000000 ∨ addr.toNat = 0xA0000000 + p ∧ p < 0x20000000 →
      (p ≤ 0x007FFFFF → route claims addr = some (.storage (p % 0x200000)))
        ∧ (0x1F000000 ≤ p ∧ p ≤ 0x1F7FFFFF → route claims addr = some (.device .exp1 p))
        ∧ (0x1F800000 ≤ p ∧ p ≤ 0x1F8003FF → route claims addr = some (.storage p))
        ∧ (0x1F801070 ≤ p ∧ p ≤ 0x1F801077 → route claims addr = some (.interrupts (p - 0x1F801070)))
        ∧ (0x1F801000 ≤ p ∧ p ≤ 0x1F802FFF ∧ ¬ (0x1F801070 ≤ p ∧ p ≤ 0x1F801077) →
            (∀ d, route claims addr = some (.device d p) →
              ∃ c ∈ claims, c.device = d ∧ c.first ≤ p ∧ p ≤ c.last)
            ∧ ((∀ c ∈ claims, ¬ (c.first ≤ p ∧ p ≤ c.last)) → route claims addr = none)
            ∧ ((∃ c ∈ claims, c.first ≤ p ∧ p ≤ c.last) → ∃ d, route claims addr = some (.device d p)))
        ∧ (0x1FC00000 ≤ p ∧ p ≤ 0x1FC7FFFF → route claims addr = some (.rom p))
        ∧ (0x007FFFFF < p ∧ p < 0x1F000000 ∨ 0x1F8003FF < p ∧ p < 0x1F801000
            ∨ 0x1F802FFF < p ∧ p < 0x1FC00000 ∨ 0x1FC7FFFF < p → route claims addr = none))
      ∧ (0xFFFE0000 ≤ addr.toNat ∧ addr.toNat ≤ 0xFFFE01FF → route claims addr = some (.storage addr.toNat))
      ∧ (0xC0000000 ≤ addr.toNat ∧ ¬ (0xFFFE0000 ≤ addr.toNat ∧ addr.toNat ≤ 0xFFFE01FF) →
          route claims addr = none)

/-- R163: "one routing decision serves all bytes of an access". With well-formed claims, every byte of an aligned
access goes to the target of its first byte, at the next location. -/
def Obligations.OneRoutingDecisionServesAllBytes : Prop :=
  ∀ (claims : List IoClaim) (addr : Word) (w : Width) (j : Nat),
    (∀ c ∈ claims, c.wf = true) → addr.toNat % w.bytes = 0 → j < w.bytes →
      route claims (addr + BitVec.ofNat 32 j)
        = match route claims addr with
          | some (.storage loc) => some (.storage (loc + j))
          | some (.rom loc) => some (.rom (loc + j))
          | some (.interrupts k) => some (.interrupts (k + j))
          | some (.device d p) => some (.device d (p + j))
          | none => none

/-- R163, R164, R154 to R156, R158: what a bus read answers, little-endian and zero-extended, and that only a device
read is seen outside: one recorded draw. -/
def Obligations.BusReads : Prop :=
  ∀ (w : Width) (s : State),
    (∀ loc, busRead (.storage loc) w s = busRead (.rom loc) w s ∧ (busRead (.storage loc) w s).2 = s
        ∧ ∀ j, byteOf (busRead (.storage loc) w s).1 j
            = if j < w.bytes then s.mem.read (loc + j) else 0#8)
      ∧ (∀ k, (busRead (.interrupts k) w s).2 = s
          ∧ ∀ j, byteOf (busRead (.interrupts k) w s).1 j
              = if j < w.bytes then interruptByte s (k + j) else 0#8)
      ∧ (∀ d p, (busRead (.device d p) w s).2.events
            = s.events ++ [.deviceRead d p w.bytes (busRead (.device d p) w s).1]
          ∧ (busRead (.device d p) w s).2.draws = s.draws + 1
          ∧ OnlyAgents s (busRead (.device d p) w s).2
          ∧ ∀ j, byteOf (busRead (.device d p) w s).1 j
              = if j < w.bytes then byteOf (Config.deviceAnswer s.draws) j else 0#8)

/-- R163, R164, R156, R158: what a bus write does. A BIOS write does nothing; a device write is recorded. -/
def Obligations.BusWrites : Prop :=
  ∀ (w : Width) (v : Word) (s : State),
    (∀ loc, s.mem.wf → OnlyMemory (BytesStored loc w.bytes v) s (busWrite (.storage loc) w v s))
      ∧ (∀ loc, busWrite (.rom loc) w v s = s)
      ∧ (∀ d p, ∃ u, (busWrite (.device d p) w v s).events = s.events ++ [.deviceWrite d p w.bytes u]
          ∧ (∀ j, byteOf u j = if j < w.bytes then byteOf v j else 0#8)
          ∧ (busWrite (.device d p) w v s).draws = s.draws
          ∧ OnlyAgents s (busWrite (.device d p) w v s))

/-- R159, R160: I_STAT and I_MASK on the bus. A byte read is its eight bits, 0 above bit 10; a byte write acknowledges
(I_STAT) or replaces (I_MASK) those bits only; a halfword is two byte accesses; a word reads the register
zero-extended, and writes `v & 0x7FF` over it or clears by it; a read changes nothing. -/
def Obligations.InterruptRegisterAccess : Prop :=
  ∀ (s : State) (v : Word) (b : Byte),
    (∀ k i, k < 4 → i < 8 → (interruptByte s k).getLsbD i = (decide (8 * k + i < 11) && s.iStat.getLsbD (8 * k + i))
        ∧ (interruptByte s (4 + k)).getLsbD i = (decide (8 * k + i < 11) && s.iMask.getLsbD (8 * k + i)))
      ∧ (∀ k, k < 4 → ∃ st, writeInterruptByte s k b = { s with iStat := st }
          ∧ ∀ i, i < 11 → st.getLsbD i
              = (s.iStat.getLsbD i && (decide (i < 8 * k ∨ 8 * k + 8 ≤ i) || b.getLsbD (i - 8 * k))))
      ∧ (∀ k, k < 4 → ∃ st, writeInterruptByte s (4 + k) b = { s with iMask := st }
          ∧ ∀ i, i < 11 → st.getLsbD i
              = if i < 8 * k ∨ 8 * k + 8 ≤ i then s.iMask.getLsbD i else b.getLsbD (i - 8 * k))
      ∧ (∀ k, busWrite (.interrupts k) .byte v s = writeInterruptByte s k (byteOf v 0)
          ∧ busWrite (.interrupts k) .half v s
              = writeInterruptByte (writeInterruptByte s k (byteOf v 0)) (k + 1) (byteOf v 1))
      ∧ (busRead (.interrupts 0) .word s).1 = s.iStat.setWidth 32
      ∧ (busRead (.interrupts 4) .word s).1 = s.iMask.setWidth 32
      ∧ busWrite (.interrupts 0) .word v s = { s with iStat := s.iStat &&& v.setWidth 11 }
      ∧ busWrite (.interrupts 4) .word v s = { s with iMask := v.setWidth 11 }
      ∧ ∀ k w, (busRead (.interrupts k) w s).2 = s
          ∧ ∀ j, byteOf (busRead (.interrupts k) w s).1 j = if j < w.bytes then interruptByte s (k + j) else 0#8

/-! ## Loads and stores (43_loadstore.md) -/

/-- R503 to R507, R500, R501: a load that reaches the bus makes one bus read and the delayed write of the extended
value; nothing else differs from what the bus read left. -/
def Obligations.LoadResults : Prop :=
  ∀ (rt rs : RegIdx) (imm16 : BitVec 16) (s : State) (tgt : Target),
    (Reaches s (s.x rs + imm16.signExtend 32) .byte tgt →
        Runs (iWord 0x20#6 rs rt imm16) (.lb rt rs imm16) s
          (OnlyGprs (GprLoaded rt ((byteOf (busRead tgt .byte s).1 0).signExtend 32)) (busRead tgt .byte s).2)
        ∧ Runs (iWord 0x24#6 rs rt imm16) (.lbu rt rs imm16) s
          (OnlyGprs (GprLoaded rt (0#24 ++ byteOf (busRead tgt .byte s).1 0)) (busRead tgt .byte s).2))
      ∧ (Reaches s (s.x rs + imm16.signExtend 32) .half tgt →
        Runs (iWord 0x21#6 rs rt imm16) (.lh rt rs imm16) s
          (OnlyGprs (GprLoaded rt
            ((byteOf (busRead tgt .half s).1 1 ++ byteOf (busRead tgt .half s).1 0).signExtend 32))
            (busRead tgt .half s).2)
        ∧ Runs (iWord 0x25#6 rs rt imm16) (.lhu rt rs imm16) s
          (OnlyGprs (GprLoaded rt
            (0#16 ++ byteOf (busRead tgt .half s).1 1 ++ byteOf (busRead tgt .half s).1 0))
            (busRead tgt .half s).2))
      ∧ (Reaches s (s.x rs + imm16.signExtend 32) .word tgt →
        Runs (iWord 0x23#6 rs rt imm16) (.lw rt rs imm16) s
          (OnlyGprs (GprLoaded rt (busRead tgt .word s).1) (busRead tgt .word s).2))

/-- R508, R509 by bytes: with `k` the byte offset, LWL puts the low `k + 1` bytes of the aligned word at the top of the
register and LWR its high `4 - k` bytes at the bottom; the other bytes are those of stage S1. -/
def Obligations.UnalignedLoadResults : Prop :=
  ∀ (rt rs : RegIdx) (imm16 : BitVec 16) (s : State) (tgt : Target),
    Reaches s ((s.x rs + imm16.signExtend 32) &&& 0xFFFFFFFC#32) .word tgt →
      Runs (iWord 0x22#6 rs rt imm16) (.lwl rt rs imm16) s
        (fun t => ∃ v, OnlyGprs (GprLoaded rt v) (busRead tgt .word s).2 t
          ∧ ∀ j, j < 4 → byteOf v j =
            let k := (s.x rs + imm16.signExtend 32).toNat % 4
            if 3 - k ≤ j then byteOf (busRead tgt .word s).1 (j - (3 - k)) else byteOf (s.xf rt) j)
      ∧ Runs (iWord 0x26#6 rs rt imm16) (.lwr rt rs imm16) s
        (fun t => ∃ v, OnlyGprs (GprLoaded rt v) (busRead tgt .word s).2 t
          ∧ ∀ j, j < 4 → byteOf v j =
            let k := (s.x rs + imm16.signExtend 32).toNat % 4
            if j ≤ 3 - k then byteOf (busRead tgt .word s).1 (j + k) else byteOf (s.xf rt) j)

/-- R502, R165, R168, R174: what the loads do when the access does not reach the bus. BadVAddr of a privileged LWL or
LWR is one of the two addresses the rules name, R502 the one and R165 with R508 and R509 the other (log 8: the model
takes the second). -/
def Obligations.LoadFaultsAndIsolation : Prop :=
  ∀ (rt rs : RegIdx) (imm16 : BitVec 16) (s : State),
    (∀ q ∈ [(0x20#6, Width.byte, Instr.lb rt rs imm16), (0x24#6, .byte, .lbu rt rs imm16),
            (0x21#6, .half, .lh rt rs imm16), (0x25#6, .half, .lhu rt rs imm16), (0x23#6, .word, .lw rt rs imm16)],
      StopsAs (.adEL (s.x rs + imm16.signExtend 32)) (s.x rs + imm16.signExtend 32) q.2.1
        (iWord q.1 rs rt imm16) q.2.2 s)
      ∧ ∀ q ∈ [(0x22#6, Instr.lwl rt rs imm16), (0x26#6, .lwr rt rs imm16)],
        ∃ bad, (bad = s.x rs + imm16.signExtend 32 ∨ bad = (s.x rs + imm16.signExtend 32) &&& 0xFFFFFFFC#32)
          ∧ StopsAs (.adEL bad) ((s.x rs + imm16.signExtend 32) &&& 0xFFFFFFFC#32) .word
            (iWord q.1 rs rt imm16) q.2 s

/-- R510 to R512: a store that reaches the bus is one bus write of the low bytes of `x[rt]`; where it lands in storage,
those bytes and no others change. -/
def Obligations.StoreResults : Prop :=
  ∀ (rt rs : RegIdx) (imm16 : BitVec 16) (s : State) (tgt : Target),
    ∀ q ∈ [(0x28#6, Width.byte, Instr.sb rt rs imm16), (0x29#6, .half, .sh rt rs imm16),
           (0x2B#6, .word, .sw rt rs imm16)],
      Reaches s (s.x rs + imm16.signExtend 32) q.2.1 tgt →
        Runs (iWord q.1 rs rt imm16) q.2.2 s
          (fun t => t = busWrite tgt q.2.1 (s.x rt) s
            ∧ ∀ loc, tgt = .storage loc → s.mem.wf → OnlyMemory (BytesStored loc q.2.1.bytes (s.x rt)) s t)

/-- R513, R514: with `k` the byte offset, SWL stores the high `k + 1` bytes of `x[rt]` at the bottom of the aligned
word and SWR the low `4 - k` bytes at its top, byte by byte. -/
def Obligations.UnalignedStoreResults : Prop :=
  ∀ (rt rs : RegIdx) (imm16 : BitVec 16) (s : State) (tgt : Target),
    s.mem.wf → (∀ c ∈ s.ioClaims, c.wf = true) →
      Reaches s ((s.x rs + imm16.signExtend 32) &&& 0xFFFFFFFC#32) .word tgt →
        Runs (iWord 0x2A#6 rs rt imm16) (.swl rt rs imm16) s
          (fun t =>
            let k := (s.x rs + imm16.signExtend 32).toNat % 4
            StoresBytes tgt 0 (k + 1) (fun j => byteOf (s.x rt) (3 - k + j)) s t)
        ∧ Runs (iWord 0x2E#6 rs rt imm16) (.swr rt rs imm16) s
          (fun t =>
            let k := (s.x rs + imm16.signExtend 32).toNat % 4
            StoresBytes tgt k (4 - k) (fun j => byteOf (s.x rt) j) s t)

/-- R502, R166, R168, R174: what the stores do when the access does not reach the bus. BadVAddr of a privileged SWL is
one of the two addresses the rules name, R502 the one and R166 with R513 the other (log 8: the model takes the second).
-/
def Obligations.StoreFaultsAndIsolation : Prop :=
  ∀ (rt rs : RegIdx) (imm16 : BitVec 16) (s : State),
    (∀ q ∈ [(0x28#6, Width.byte, Instr.sb rt rs imm16), (0x29#6, .half, .sh rt rs imm16),
            (0x2B#6, .word, .sw rt rs imm16)],
      StopsAs (.adES (s.x rs + imm16.signExtend 32)) (s.x rs + imm16.signExtend 32) q.2.1
        (iWord q.1 rs rt imm16) q.2.2 s)
      ∧ ((∀ c ∈ s.ioClaims, c.wf = true) →
        (∃ bad, (bad = s.x rs + imm16.signExtend 32 ∨ bad = (s.x rs + imm16.signExtend 32) &&& 0xFFFFFFFC#32)
          ∧ StopsAs (.adES bad) ((s.x rs + imm16.signExtend 32) &&& 0xFFFFFFFC#32) .word
            (iWord 0x2A#6 rs rt imm16) (.swl rt rs imm16) s)
        ∧ StopsAs (.adES (s.x rs + imm16.signExtend 32)) ((s.x rs + imm16.signExtend 32) &&& 0xFFFFFFFC#32) .word
            (iWord 0x2E#6 rs rt imm16) (.swr rt rs imm16) s)

/-- 10_state.md R58, 70_reset_and_hazards.md R740. `s` is the state a load starts in and `t` the one it ends in: the
next instruction reads what stood in stage S2 before the load, the one after it reads the loaded value `v`. (a) an
immediate write of the slot wins; (b) a second load of the slot follows one tick later. -/
def Obligations.LoadDelayVisibility : Prop :=
  ∀ (r : RegIdx) (v : Word) (s t : State), r ≠ 0#5 → GprLoaded r v s t →
    (endTick t).x r = slot s.s2 r ∧ (endTick t).xf r = v
      ∧ (∀ u, GprsSameBut (fun q => q ≠ r) (endTick t) u → (endTick u).x r = v)
      ∧ (∀ u v', GprWritten r v' (endTick t) u →
          slot (endTick u).s1 r = v' ∧ slot (endTick u).s2 r = v' ∧ slot (endTick u).s3 r = v')
      ∧ (∀ u v', GprLoaded r v' (endTick t) u → (endTick u).x r = v
          ∧ ∀ w, GprsSameBut (fun q => q ≠ r) (endTick u) w → (endTick w).x r = v')

/-- R516: LWR at `ea` and LWL at `ea + 3` in consecutive ticks, in either order, load the unaligned word at `ea` from
storage, byte `j` of it from the aligned word that holds `ea + j`. -/
def Obligations.UnalignedWordIdiom : Prop :=
  ∀ (rt rs : RegIdx) (immR immL : BitVec 16) (s : State) (ea : Word) (loc loc' : Nat),
    rt ≠ 0#5 → s.x rs + immR.signExtend 32 = ea → s.x rs + immL.signExtend 32 = ea + 3#32 →
    (endTick s).x rs = s.x rs →
    Reaches s (ea &&& 0xFFFFFFFC#32) .word (.storage loc) →
    Reaches s ((ea + 3#32) &&& 0xFFFFFFFC#32) .word (.storage loc') →
      ∀ q ∈ [(Instr.lwr rt rs immR, Instr.lwl rt rs immL), (.lwl rt rs immL, .lwr rt rs immR)],
        ∃ t u, exec q.1 s = .next t ∧ exec q.2 (endTick t) = .next u
          ∧ ∀ j, j < 4 → byteOf (u.xf rt) j =
            if ea.toNat % 4 + j < 4 then s.mem.read (loc + (ea.toNat % 4 + j))
            else s.mem.read (loc' + (ea.toNat % 4 + j - 4))

/-! ## System calls and coprocessors (44_system_cop.md) -/

/-- R560, R561: SYSCALL and BREAK take their exception, whatever `code20` holds. -/
def Obligations.SystemCallAndBreakpoint : Prop :=
  ∀ (code20 : BitVec 20) (s : State),
    RunsTo (codeWord code20 0x0C#6) (.syscall code20) s (enterException .sys s)
      ∧ RunsTo (codeWord code20 0x0D#6) (.breakpoint code20) s (enterException .bp s)

/-- R563 to R566: the CP0 moves, where coprocessor 0 may be used. `low` and `low6` are the ignored bits. -/
def Obligations.Cop0Moves : Prop :=
  ∀ (rt rd : RegIdx) (low : BitVec 5) (low6 : BitVec 6) (s : State), Cop0Usable s →
    (Runs (rWord 0x10#6 0x00#5 rt rd low low6) (.mfc0 rt rd) s (OnlyGprs (GprWritten rt (s.cp0Reg rd)) s))
      ∧ (Runs (rWord 0x10#6 0x02#5 rt rd low low6) (.cfc0 rt rd) s (OnlyGprs (GprWritten rt (s.cp0Reg rd)) s))
      ∧ (Runs (rWord 0x10#6 0x04#5 rt rd low low6) (.mtc0 rt rd) s
          (OnlyCp0 (fun s t => t.cp0Reg rd = s.x rt ∧ Cp0SameBut (fun n => n = rd) s t) s))
      ∧ (Runs (rWord 0x10#6 0x06#5 rt rd low low6) (.ctc0 rt rd) s
          (OnlyCp0 (fun s t => t.cp0Reg rd = s.x rt ∧ Cp0SameBut (fun n => n = rd) s t) s))

/-- R567: RFE moves SR[5:2] to SR[3:0] and leaves every other bit and register; it does not jump. -/
def Obligations.ReturnFromException : Prop :=
  ∀ (ignored : BitVec 19) (s : State), Cop0Usable s →
    Runs (copWord 0x10#6 (ignored ++ 0x10#6)) .rfe s
      (OnlyCp0 (fun s t => (∀ i, t.sr.getLsbD i = if i < 4 then s.sr.getLsbD (i + 2) else s.sr.getLsbD i)
        ∧ Cp0SameBut (fun n => n = 12#5) s t) s)

/-- R568, R569: LWC0 writes the word at once, SWC0 stores the register. -/
def Obligations.Cop0LoadStore : Prop :=
  ∀ (rt rs : RegIdx) (imm16 : BitVec 16) (s : State) (tgt : Target),
    Cop0Usable s → Reaches s (s.x rs + imm16.signExtend 32) .word tgt →
      Runs (iWord 0x30#6 rs rt imm16) (.lwc0 rt rs imm16) s
        (OnlyCp0 (fun m t => t.cp0Reg rt = (busRead tgt .word s).1 ∧ Cp0SameBut (fun n => n = rt) m t)
          (busRead tgt .word s).2)
      ∧ Runs (iWord 0x38#6 rs rt imm16) (.swc0 rt rs imm16) s
        (fun t => t = busWrite tgt .word (s.cp0Reg rt) s
          ∧ ∀ loc, tgt = .storage loc → s.mem.wf → OnlyMemory (BytesStored loc 4 (s.cp0Reg rt)) s t)

/-- R570 to R575: the moves to and from coprocessor 2 and its command. What a read answers is a free value. -/
def Obligations.Cop2MovesAndCommand : Prop :=
  ∀ (rt rd : RegIdx) (low : BitVec 5) (low6 : BitVec 6) (imm25 : BitVec 25) (s : State), srCu2 s.sr = true →
    (Runs (rWord 0x12#6 0x00#5 rt rd low low6) (.mfc2 rt rd) s
        (OnlyGprs (GprWritten rt (Config.cop2Answer s.draws)) (afterCop2Read (.cop2ReadData rd) s)))
      ∧ (Runs (rWord 0x12#6 0x02#5 rt rd low low6) (.cfc2 rt rd) s
        (OnlyGprs (GprWritten rt (Config.cop2Answer s.draws)) (afterCop2Read (.cop2ReadCtrl rd) s)))
      ∧ RunsTo (rWord 0x12#6 0x04#5 rt rd low low6) (.mtc2 rt rd) s (afterCop2 (.cop2WriteData rd (s.x rt)) s)
      ∧ RunsTo (rWord 0x12#6 0x06#5 rt rd low low6) (.ctc2 rt rd) s (afterCop2 (.cop2WriteCtrl rd (s.x rt)) s)
      ∧ RunsTo (copWord 0x12#6 imm25) (.cop2 imm25) s (afterCop2 (.cop2Command imm25) s)

/-- R576, R577: LWC2 sends the word read, SWC2 stores the answer. -/
def Obligations.Cop2LoadStore : Prop :=
  ∀ (rt rs : RegIdx) (imm16 : BitVec 16) (s : State) (tgt : Target),
    srCu2 s.sr = true → Reaches s (s.x rs + imm16.signExtend 32) .word tgt →
      RunsTo (iWord 0x32#6 rs rt imm16) (.lwc2 rt rs imm16) s
        (afterCop2 (.cop2WriteData rt (busRead tgt .word s).1) (busRead tgt .word s).2)
      ∧ Runs (iWord 0x3A#6 rs rt imm16) (.swc2 rt rs imm16) s
        (fun t => t = busWrite tgt .word (Config.cop2Answer s.draws) (afterCop2Read (.cop2ReadData rt) s)
          ∧ ∀ loc, tgt = .storage loc → s.mem.wf →
            OnlyMemory (BytesStored loc 4 (Config.cop2Answer s.draws)) (afterCop2Read (.cop2ReadData rt) s) t)

/-- R568, R569, R576, R577 with R165, R166, R174: the coprocessor loads and stores that do not reach the bus. A SWC2
that faults reads nothing from coprocessor 2; an isolated one has passed its checks, so it reads and stores nothing
(log 9: the model's choice). -/
def Obligations.CopLoadStoreFaultsAndIsolation : Prop :=
  ∀ (rt rs : RegIdx) (imm16 : BitVec 16) (s : State),
    (Cop0Usable s →
      StopsAs (.adEL (s.x rs + imm16.signExtend 32)) (s.x rs + imm16.signExtend 32) .word
        (iWord 0x30#6 rs rt imm16) (.lwc0 rt rs imm16) s
      ∧ StopsAs (.adES (s.x rs + imm16.signExtend 32)) (s.x rs + imm16.signExtend 32) .word
        (iWord 0x38#6 rs rt imm16) (.swc0 rt rs imm16) s)
      ∧ (srCu2 s.sr = true →
        StopsAs (.adEL (s.x rs + imm16.signExtend 32)) (s.x rs + imm16.signExtend 32) .word
          (iWord 0x32#6 rs rt imm16) (.lwc2 rt rs imm16) s
        ∧ (¬ Permitted s (s.x rs + imm16.signExtend 32) .word →
            RunsTo (iWord 0x3A#6 rs rt imm16) (.swc2 rt rs imm16) s
              (enterException (.adES (s.x rs + imm16.signExtend 32)) s))
        ∧ (Permitted s (s.x rs + imm16.signExtend 32) .word ∧ srIsC s.sr = true →
            RunsTo (iWord 0x3A#6 rs rt imm16) (.swc2 rt rs imm16) s (afterCop2Read (.cop2ReadData rt) s))
        ∧ (Permitted s (s.x rs + imm16.signExtend 32) .word ∧ srIsC s.sr = false
            ∧ route s.ioClaims (s.x rs + imm16.signExtend 32) = none →
            RunsTo (iWord 0x3A#6 rs rt imm16) (.swc2 rt rs imm16) s (enterException .dbe s)))

/-- R562: the usability check comes before any decoding below the primary opcode, so it holds of every word of the
opcode, the reserved ones too. -/
def Obligations.CoprocessorUnusable : Prop :=
  ∀ s : State,
    (s.currentInstruction.extractLsb' 26 6 ∈ [0x10#6, 0x30#6, 0x38#6] ∧ ¬ Cop0Usable s →
        execute s = .next (enterException (.cpU 0#2) s))
      ∧ (s.currentInstruction.extractLsb' 26 6 ∈ [0x12#6, 0x32#6, 0x3A#6] ∧ srCu2 s.sr = false →
        execute s = .next (enterException (.cpU 2#2) s))
      ∧ (s.currentInstruction.extractLsb' 26 6 ∈ [0x11#6, 0x31#6, 0x39#6] →
        execute s = .next (enterException (.cpU 1#2) s))
      ∧ (s.currentInstruction.extractLsb' 26 6 ∈ [0x13#6, 0x33#6, 0x3B#6] →
        execute s = .next (enterException (.cpU 3#2) s))

/-- R578: every word of an absent coprocessor, in every state, takes CpU with that coprocessor's number. -/
def Obligations.AbsentCoprocessors : Prop :=
  ∀ (ignored : BitVec 26) (s : State),
    RunsTo (jWord 0x11#6 ignored) .cop1 s (enterException (.cpU 1#2) s)
      ∧ RunsTo (jWord 0x13#6 ignored) .cop3 s (enterException (.cpU 3#2) s)
      ∧ RunsTo (jWord 0x31#6 ignored) .lwc1 s (enterException (.cpU 1#2) s)
      ∧ RunsTo (jWord 0x33#6 ignored) .lwc3 s (enterException (.cpU 3#2) s)
      ∧ RunsTo (jWord 0x39#6 ignored) .swc1 s (enterException (.cpU 1#2) s)
      ∧ RunsTo (jWord 0x3B#6 ignored) .swc3 s (enterException (.cpU 3#2) s)

/-- 30_encoding.md R261, R579, R580: a reserved word raises RI, in COP0 and COP2 after the usability check passes. -/
def Obligations.ReservedWordsRaiseRi : Prop :=
  ∀ s : State, reservedWord s.currentInstruction = true →
    (s.currentInstruction.extractLsb' 26 6 = 0x10#6 → Cop0Usable s) →
    (s.currentInstruction.extractLsb' 26 6 = 0x12#6 → srCu2 s.sr = true) →
      execute s = .next (enterException .ri s)

/-! ## Exceptions and interrupts (60_exceptions.md) -/

/-- R655, R657, R640: everything that taking an exception does, and that it does nothing else. -/
def Obligations.ExceptionEntry : Prop :=
  ∀ (e : Exc) (s : State), ∃ t, enterException e s = t
    ∧ t.epc = (if s.inDelaySlot then s.currentPc - 4#32 else s.currentPc)
    ∧ (∀ i, t.cause.getLsbD i =
        if i = 31 then s.inDelaySlot
        else if 2 ≤ i ∧ i ≤ 6 then
          ((match e with
            | .int => 0#5 | .adEL _ => 4#5 | .adES _ => 5#5 | .ibe => 6#5 | .dbe => 7#5 | .sys => 8#5
            | .bp => 9#5 | .ri => 10#5 | .cpU _ => 11#5 | .ov => 12#5) : BitVec 5).getLsbD (i - 2)
        else if 28 ≤ i ∧ i ≤ 29 then (match e with | .cpU ce => ce.getLsbD (i - 28) | _ => s.cause.getLsbD i)
        else s.cause.getLsbD i)
    ∧ (∀ i, t.sr.getLsbD i =
        if i < 2 then false else if i < 6 then s.sr.getLsbD (i - 2) else s.sr.getLsbD i)
    ∧ t.badVAddr = (match e with | .adEL a => a | .adES a => a | _ => s.badVAddr)
    ∧ Cp0SameBut (fun n => n = 8#5 ∨ n = 12#5 ∨ n = 13#5 ∨ n = 14#5) s t
    ∧ (t.nextPc = if s.sr.getLsbD 22 then 0xBFC00180#32 else 0x80000080#32)
    ∧ t.nextInstruction = 0#32 ∧ t.nextInstructionFault = .none ∧ t.nextInstructionPc = t.nextPc - 4#32
    ∧ t.branchTaken = false
    ∧ t.currentPc = s.currentPc ∧ t.currentInstruction = s.currentInstruction ∧ t.currentFault = s.currentFault
    ∧ t.inDelaySlot = s.inDelaySlot
    ∧ SameGprs s t ∧ SameHiLo s t ∧ SameInterrupts s t ∧ SameMemory s t ∧ SameAgents s t

/-- R655 with 44_system_cop.md R567: RFE right after an entry completes and restores the current and previous pairs,
SR[3:0]. It is no undoing of the entry: the old pair SR[5:4], EPC, Cause, BadVAddr, the latch, the next fetch and
everything else stay as the entry left them. The bits of SR above 5 are as they were before it. -/
def Obligations.RfeAfterEntryRestoresCurrentAndPreviousPairs : Prop :=
  ∀ (e : Exc) (s : State), ∃ t, exec .rfe (enterException e s) = .next t
    ∧ (∀ i, t.sr.getLsbD i = if 4 ≤ i ∧ i < 6 then s.sr.getLsbD (i - 2) else s.sr.getLsbD i)
    ∧ OnlyCp0 (Cp0SameBut (fun n => n = 12#5)) (enterException e s) t

/-- R630 to R633: everything the tick does before the instruction is selected. -/
def Obligations.TickBegins : Prop :=
  ∀ s : State, ∃ f, f = fetch s.nextPc s ∧ ∃ t, beginTick s = t
    ∧ t.currentPc = s.nextInstructionPc ∧ t.currentInstruction = s.nextInstruction
    ∧ t.currentFault = s.nextInstructionFault ∧ t.inDelaySlot = s.branchTaken ∧ t.branchTaken = false
    ∧ t.nextInstruction = f.1 ∧ t.nextInstructionFault = f.2.1 ∧ t.nextInstructionPc = s.nextPc
    ∧ t.nextPc = s.nextPc + 4#32
    ∧ (∀ i, t.cause.getLsbD i = if i = 10 then decide (s.iStat &&& s.iMask ≠ 0#11) else s.cause.getLsbD i)
    ∧ Cp0SameBut (fun n => n = 13#5) s t
    ∧ SameGprs s t ∧ SameHiLo s t ∧ SameInterrupts s t ∧ SameMemory s t ∧ SameParameters s t
    ∧ t.events = f.2.2.events ∧ t.draws = f.2.2.draws

/-- 20_memory.md R167: the fetch. SR.IsC plays no part; a misaligned or forbidden address gives the tag AdEL, an
unclaimed one IBE, and a word that carries a tag is 0. -/
def Obligations.FetchResults : Prop :=
  ∀ (addr : Word) (s : State),
    (¬ Permitted s addr .word → fetch addr s = (0#32, .adEL, s))
      ∧ (Permitted s addr .word ∧ route s.ioClaims addr = none → fetch addr s = (0#32, .ibe, s))
      ∧ (∀ tgt, Permitted s addr .word ∧ route s.ioClaims addr = some tgt →
          fetch addr s = ((busRead tgt .word s).1, .none, (busRead tgt .word s).2))

/-- R634, R647, R648: an enabled interrupt replaces the instruction, whatever its word and fetch fault are, and
whether or not the mode is user mode. -/
def Obligations.InterruptReplacesInstruction : Prop :=
  ∀ s : State, (beginTick s).sr.getLsbD 0 = true →
    (∃ i, 8 ≤ i ∧ i ≤ 15 ∧ (beginTick s).cause.getLsbD i = true ∧ (beginTick s).sr.getLsbD i = true) →
      step s = finishStep (.next (enterException .int (beginTick s)))

/-- R634, R465, R650: with no enabled interrupt, a word that carries a fetch fault raises it and does not execute. -/
def Obligations.FetchFaultReplacesInstruction : Prop :=
  ∀ s : State,
    ((beginTick s).sr.getLsbD 0 = false
        ∨ ∀ i, 8 ≤ i → i ≤ 15 → ¬ ((beginTick s).cause.getLsbD i = true ∧ (beginTick s).sr.getLsbD i = true)) →
      (s.nextInstructionFault = .adEL →
          step s = finishStep (.next (enterException (.adEL s.nextInstructionPc) (beginTick s))))
        ∧ (s.nextInstructionFault = .ibe → step s = finishStep (.next (enterException .ibe (beginTick s))))

/-- R634 (c): with no enabled interrupt and no fetch fault, the step executes the latched word between the beginning of
the tick and its end: the instruction it decodes to, or RI for a reserved word (30_encoding.md R261), in COP0 and COP2
where the coprocessor may be used. -/
def Obligations.StepRunsDecodedInstruction : Prop :=
  ∀ s : State,
    ((beginTick s).sr.getLsbD 0 = false
        ∨ ∀ n, 8 ≤ n → n ≤ 15 → ¬ ((beginTick s).cause.getLsbD n = true ∧ (beginTick s).sr.getLsbD n = true)) →
      s.nextInstructionFault = .none →
        (∀ i, decode s.nextInstruction = .instr i → step s = finishStep (exec i (beginTick s)))
        ∧ (reservedWord s.nextInstruction = true →
            (s.nextInstruction.extractLsb' 26 6 = 0x10#6 → Cop0Usable (beginTick s)) →
            (s.nextInstruction.extractLsb' 26 6 = 0x12#6 → srCu2 (beginTick s).sr = true) →
              step s = finishStep (.next (enterException .ri (beginTick s))))
        ∧ step s = finishStep (execute (beginTick s))
        ∧ (beginTick s).currentInstruction = s.nextInstruction

/-- R636 with 70_reset_and_hazards.md R752: after the instruction the stages advance and the delay-slot mark is
cleared, then the environment acts. The last clause, that an empty list of environment actions changes nothing, is the
model's choice (log 7) and no rule's: R181 of 20_memory.md admits an action in every tick. -/
def Obligations.TickEnds : Prop :=
  ∀ s : State, ∃ t, finishStep (.next s) = .next (envStep t)
    ∧ t.s3 = s.s2 ∧ t.s2 = s.s1 ∧ t.s1 = s.s1 ∧ t.inDelaySlot = false
    ∧ SameHiLo s t ∧ SameTransfer s t ∧ SameCp0 s t ∧ SameInterrupts s t ∧ SameMemory s t ∧ SameAgents s t
    ∧ t.currentPc = s.currentPc ∧ t.currentInstruction = s.currentInstruction ∧ t.currentFault = s.currentFault
    ∧ t.nextInstruction = s.nextInstruction ∧ t.nextInstructionPc = s.nextInstructionPc
    ∧ t.nextInstructionFault = s.nextInstructionFault
    ∧ (s.env = [] → envStep t = t)

/-- R674, R635, 70_reset_and_hazards.md R753: the core never halts and no exception escapes: every step answers a next
state. -/
def Obligations.StepAlwaysAnswersNext : Prop := ∀ s : State, ∃ t, step s = .next t

/-! ## Between ticks, and reset (20_memory.md R181, 70_reset_and_hazards.md) -/

/-- R181, R644: what the environment may do between ticks, reset apart: set bits of I_STAT and write RAM, and nothing
else of the block. -/
def Obligations.EnvironmentStep : Prop :=
  ∀ (a : EnvAction) (rest : List EnvAction) (s : State), s.env = a :: rest → a.reset = false →
    (∀ i, (envStep s).iStat.getLsbD i = (s.iStat.getLsbD i || a.irqs.getLsbD i))
      ∧ (envStep s).env = rest
      ∧ (∀ loc, (∀ c ∈ a.dma, c.1.toNat ≠ loc) → (envStep s).mem.read loc = s.mem.read loc)
      ∧ (∀ before c after, s.mem.wf → a.dma = before ++ c :: after → (∀ d ∈ after, d.1 ≠ c.1) →
          (envStep s).mem.read c.1.toNat = c.2)
      ∧ (envStep s).iMask = s.iMask ∧ SameGprs s (envStep s) ∧ SameHiLo s (envStep s) ∧ SamePipeline s (envStep s)
      ∧ SameTransfer s (envStep s) ∧ SameCp0 s (envStep s) ∧ (envStep s).events = s.events
      ∧ (envStep s).draws = s.draws ∧ (envStep s).ioClaims = s.ioClaims

/-- R730, R731, R734: a reset event gives every register its value of `State.reset`, zeroes the cache-control window
and keeps RAM, scratchpad and BIOS. Of HI, LO and the CP0 registers but SR and PRId that value is the model's choice,
unsafe (log 1), since R731 leaves them unspecified; that the environment's coming actions are kept is the model's
choice too (log 7). -/
def Obligations.ResetEvent : Prop :=
  ∀ s : State,
    (∀ loc, isStorage loc = true → (resetEvent s).mem.read loc = if isCacheControl loc then 0#8 else s.mem.read loc)
      ∧ { resetEvent s with
            mem := State.reset.mem, ioClaims := State.reset.ioClaims, draws := State.reset.draws,
            events := State.reset.events, env := State.reset.env } = State.reset
      ∧ SameAgents s (resetEvent s)

/-- R731, R732: the values that reset gives, where the spec gives one. -/
def Obligations.ResetValues : Prop :=
  State.reset.nextInstruction = 0#32 ∧ State.reset.nextInstructionFault = .none
    ∧ State.reset.nextInstructionPc = 0xBFBFFFFC#32 ∧ State.reset.nextPc = 0xBFC00000#32
    ∧ State.reset.branchTaken = false ∧ State.reset.inDelaySlot = false
    ∧ (∀ r : RegIdx, State.reset.x r = 0#32 ∧ State.reset.xf r = 0#32 ∧ slot State.reset.s2 r = 0#32)
    ∧ State.reset.currentPc = 0#32 ∧ State.reset.currentInstruction = 0#32 ∧ State.reset.currentFault = .none
    ∧ State.reset.sr = 0x00400000#32 ∧ State.reset.cp0Reg 15#5 = 0x00000002#32
    ∧ State.reset.iStat = 0#11 ∧ State.reset.iMask = 0#11
    ∧ ∀ loc, isCacheControl loc = true → State.reset.mem.read loc = 0#8

/-- R733: the first tick after reset promotes the bubble, fetches the first BIOS word and executes the no-op; every
register but the latch and `next_pc` is as reset left it. `s` has the registers of R731 and anything in those it leaves
unspecified, in storage, claims and coming actions, of which the first holds no reset. That no IRQ is posted and no RAM
written when no action waits is the model's choice (log 7). -/
def Obligations.FirstTickAfterReset : Prop :=
  ∀ s : State, ResetRegisters s → (∀ a rest, s.env = a :: rest → a.reset = false) → ∃ t,
    step s = .next t
      ∧ t.currentPc = 0xBFBFFFFC#32 ∧ t.currentInstruction = 0#32 ∧ t.currentFault = .none
      ∧ t.nextInstructionPc = 0xBFC00000#32 ∧ t.nextInstructionFault = .none ∧ t.nextPc = 0xBFC00004#32
      ∧ t.inDelaySlot = false ∧ t.branchTaken = false
      ∧ (∀ j, j < 4 → byteOf t.nextInstruction j = s.mem.read (0x1FC00000 + j))
      ∧ SameGprs s t ∧ SameHiLo s t
      ∧ Cp0SameBut (fun n => n = 13#5) s t
      ∧ (∀ i, t.cause.getLsbD i = if i = 10 then false else s.cause.getLsbD i)
      ∧ t.iMask = 0#11 ∧ t.iStat = (match s.env with | [] => 0#11 | a :: _ => a.irqs)
      ∧ (∀ loc, (∀ a rest, s.env = a :: rest → ∀ c ∈ a.dma, c.1.toNat ≠ loc) → t.mem.read loc = s.mem.read loc)
      ∧ t.events = s.events ∧ t.draws = s.draws ∧ t.ioClaims = s.ioClaims ∧ t.env = s.env.tail

/-! ## The whole machine -/

/-- The invariant holds right after reset. -/
def Obligations.ResetMeetsInvariant : Prop := State.reset.Inv

/-- Every step keeps the invariant, from every state that meets it. -/
def Obligations.StepKeepsInvariant : Prop := ∀ s t : State, s.Inv → step s = .next t → t.Inv

/-- 20_memory.md R156: no step changes a byte of BIOS, whatever the environment does. -/
def Obligations.BiosNeverChanges : Prop :=
  ∀ (s t : State) (loc : Nat), isBios loc = true → step s = .next t → t.mem.read loc = s.mem.read loc

/-- 60_exceptions.md R667: the mode changes only by reset, exception entry, RFE, or a write of SR with MTC0, CTC0 or
LWC0. The clauses go through the step: its beginning and end never change the mode; its middle takes an exception,
which gives kernel mode, or runs the decoded instruction; the environment changes it by a reset event alone, which gives
kernel mode. -/
def Obligations.ModeChangesOnlyByListedEvents : Prop :=
  (∀ (i : Instr) (s t : State), exec i s = .next t → t.userMode ≠ s.userMode →
      (∃ e, t = enterException e s) ∨ i = .rfe ∨ (∃ rt, i = .mtc0 rt 12#5) ∨ (∃ rt, i = .ctc0 rt 12#5)
        ∨ ∃ rs imm16, i = .lwc0 12#5 rs imm16)
    ∧ (∀ s t : State, selectAndExecute s = .next t →
        (∃ e, t = enterException e s) ∨ ∃ i, decode s.currentInstruction = .instr i ∧ exec i s = .next t)
    ∧ (∀ s : State, (beginTick s).userMode = s.userMode ∧ (endTick s).userMode = s.userMode)
    ∧ (∀ (e : Exc) (s : State), (enterException e s).userMode = false)
    ∧ (∀ s : State, (∀ a rest, s.env = a :: rest → a.reset = false) → (envStep s).userMode = s.userMode)
    ∧ (∀ (a : EnvAction) (rest : List EnvAction) (s : State), s.env = a :: rest → a.reset = true →
        (envStep s).userMode = false)
    ∧ ∀ s : State, (resetEvent s).userMode = false

/-- 60_exceptions.md R666: in user mode without SR.CU0 no instruction changes a CP0 register, but by taking an
exception. -/
def Obligations.UserModeKeepsCp0 : Prop :=
  ∀ (i : Instr) (s t : State), srKUc s.sr = true → srCu0 s.sr = false → exec i s = .next t →
    (∃ e, t = enterException e s) ∨ SameCp0 s t

/-- 60_exceptions.md R666: no instruction run in user mode changes the cache-control window, which only kernel
addresses reach. -/
def Obligations.UserModeKeepsCacheControl : Prop :=
  ∀ (i : Instr) (s t : State) (loc : Nat), srKUc s.sr = true → exec i s = .next t → isCacheControl loc = true →
    t.mem.read loc = s.mem.read loc

/-- 10_state.md R54: register 0 reads as 0 in every state, and no instruction writes slot 0 of any stage. -/
def Obligations.RegisterZeroIsNeverWritten : Prop :=
  (∀ s : State, s.x 0#5 = 0#32 ∧ s.xf 0#5 = 0#32)
    ∧ ∀ (i : Instr) (s t : State), exec i s = .next t →
        slot t.s1 0#5 = slot s.s1 0#5 ∧ slot t.s2 0#5 = slot s.s2 0#5 ∧ slot t.s3 0#5 = slot s.s3 0#5
end

