-- ==== Sys2Proof/Laws/Fields.lean ====
section
/-! SUPPORT. The bits of a replaced field, and what the updates of SR and Cause leave of each bit. -/

namespace Sys2Proof.Machine

theorem getLsbD_fieldMask (lo n i : Nat) (h : lo + n ≤ 32) :
    (fieldMask lo n).getLsbD i = (decide (lo ≤ i) && decide (i < lo + n)) := by
  simp only [fieldMask, BitVec.getLsbD_shiftLeft, BitVec.getLsbD_setWidth, BitVec.getLsbD_allOnes]
  by_cases h1 : i < lo
  · simp [h1, Nat.not_le.2 h1]
  · by_cases h2 : i < lo + n
    · have : i - lo < n := by omega
      have : i < 32 := by omega
      have : i - lo < 32 := by omega
      have : lo ≤ i := by omega
      simp [*]
    · have : ¬ i - lo < n := by omega
      simp [*]

/-- A replaced field: the new value inside, the old word outside. -/
theorem getLsbD_setField {n : Nat} (w : Word) (lo : Nat) (v : BitVec n) (i : Nat) (h : lo + n ≤ 32) :
    (setField w lo v).getLsbD i = if lo ≤ i ∧ i < lo + n then v.getLsbD (i - lo) else w.getLsbD i := by
  simp only [setField, BitVec.getLsbD_or, BitVec.getLsbD_and, BitVec.getLsbD_not, BitVec.getLsbD_shiftLeft,
    BitVec.getLsbD_setWidth, getLsbD_fieldMask lo n i h]
  by_cases h1 : lo ≤ i ∧ i < lo + n
  · have : i < 32 := by omega
    have : i - lo < 32 := by omega
    have : ¬ i < lo := by omega
    simp [*]
  · rw [if_neg h1]
    by_cases h2 : i < 32
    · by_cases h3 : i < lo
      · have : ¬ lo ≤ i := by omega
        simp [*]
      · have h4 : ¬ i < lo + n := by omega
        have h5 : v.getLsbD (i - lo) = false := BitVec.getLsbD_of_ge _ _ (by omega)
        simp [*]
    · have h5 : w.getLsbD i = false := BitVec.getLsbD_of_ge _ _ (by omega)
      simp [h2, h5]

/-- SR after exception entry: the two lower pairs move up, the current pair is cleared, bits above 5 stay. -/
theorem getLsbD_pushModeStack (sr : Word) (i : Nat) :
    (pushModeStack sr).getLsbD i = if i < 2 then false else if i < 6 then sr.getLsbD (i - 2) else sr.getLsbD i := by
  rw [pushModeStack, getLsbD_setField _ _ _ _ (by omega)]
  by_cases h6 : i < 6
  · rw [if_pos (by omega), BitVec.getLsbD_append, BitVec.getLsbD_extractLsb']
    by_cases h2 : i < 2
    · simp [h2]
    · have : i - 2 < 4 := by omega
      simp [h2, h6, this]
  · rw [if_neg (by omega), if_neg (by omega), if_neg h6]

/-- SR after RFE: the two upper pairs move down, bits above 3 stay. -/
theorem getLsbD_popModeStack (sr : Word) (i : Nat) :
    (popModeStack sr).getLsbD i = if i < 4 then sr.getLsbD (i + 2) else sr.getLsbD i := by
  rw [popModeStack, getLsbD_setField _ _ _ _ (by omega)]
  by_cases h4 : i < 4
  · rw [if_pos (by omega), if_pos h4, BitVec.getLsbD_extractLsb']
    simp [h4, Nat.add_comm]
  · rw [if_neg (by omega), if_neg h4]

/-- Cause after the sample: bit 10 is the request, the other bits stay. -/
theorem getLsbD_sampleCause (cause : Word) (request : Bool) (i : Nat) :
    (sampleCause cause request).getLsbD i = if i = 10 then request else cause.getLsbD i := by
  rw [sampleCause, getLsbD_setField _ _ _ _ (by omega)]
  by_cases h : i = 10
  · subst h; simp
  · rw [if_neg (by omega), if_neg h]

/-- Cause after exception entry: BD, ExcCode, CE where one is given, the other bits stay. -/
theorem getLsbD_causeOnEntry (cause : Word) (bd : Bool) (code : BitVec 5) (ce : Option (BitVec 2)) (i : Nat) :
    (causeOnEntry cause bd code ce).getLsbD i =
      if i = 31 then bd
      else if 2 ≤ i ∧ i < 7 then code.getLsbD (i - 2)
      else if 28 ≤ i ∧ i < 30 then (match ce with | some n => n.getLsbD (i - 28) | none => cause.getLsbD i)
      else cause.getLsbD i := by
  have base : (setField (setField cause 31 (BitVec.ofBool bd)) 2 code).getLsbD i =
      if i = 31 then bd else if 2 ≤ i ∧ i < 7 then code.getLsbD (i - 2) else cause.getLsbD i := by
    rw [getLsbD_setField _ _ _ _ (by omega), getLsbD_setField _ _ _ _ (by omega)]
    by_cases h31 : i = 31
    · subst h31; simp
    · by_cases h2 : 2 ≤ i ∧ i < 7
      · rw [if_pos (by omega), if_neg h31, if_pos h2]
      · rw [if_neg (by omega), if_neg (by omega), if_neg h31, if_neg h2]
  cases ce with
  | none => simp only [causeOnEntry, base, ite_self]
  | some n =>
    simp only [causeOnEntry]
    rw [getLsbD_setField _ _ _ _ (by omega), base]
    by_cases h28 : 28 ≤ i ∧ i < 30
    · rw [if_pos (by omega), if_neg (by omega), if_neg (by omega), if_pos h28]
    · rw [if_neg (by omega)]
      repeat' split
      all_goals rfl

/-! ### The bits the machine reads -/

@[simp] theorem srIEc_pushModeStack (sr : Word) : srIEc (pushModeStack sr) = false := by
  rw [srIEc, getLsbD_pushModeStack]; rfl
@[simp] theorem srKUc_pushModeStack (sr : Word) : srKUc (pushModeStack sr) = false := by
  rw [srKUc, getLsbD_pushModeStack]; rfl
@[simp] theorem srBev_pushModeStack (sr : Word) : srBev (pushModeStack sr) = srBev sr := by
  rw [srBev, getLsbD_pushModeStack]; rfl

end Sys2Proof.Machine
end

