-- ==== Sys2Proof/Laws/Memory.lean ====
section
/-! SUPPORT. Storage: a read after a write, and every operation keeps the canonical form. -/

namespace Sys2Proof.Machine.Memory

/-! ### Reading -/

theorem read_consCell (m : Memory) (loc a : Nat) (b : Byte) :
    read (consCell loc b m) a =
      if a = loc then (if b = unlistedByte loc then read m loc else b) else read m a := by
  unfold consCell
  by_cases hb : b = unlistedByte loc <;> by_cases ha : a = loc <;> simp [hb, ha, read]

/-- A location below every listed one reads as unlisted. -/
theorem read_of_lt (m : Memory) (a : Nat) (h : ∀ c ∈ m, a < c.1) : read m a = unlistedByte a := by
  induction m with
  | nil => rfl
  | cons c m ih =>
    obtain ⟨l, b⟩ := c
    have hl : a < l := h (l, b) (by simp)
    simp [read, Nat.ne_of_lt hl, ih (fun c hc => h c (by simp [hc]))]

/-- A write leaves every other location alone, in any list. -/
theorem read_write_ne (m : Memory) (loc a : Nat) (b : Byte) (h : a ≠ loc) :
    read (m.write loc b) a = read m a := by
  induction m with
  | nil => simp [write, read_consCell, h]
  | cons c m ih =>
    obtain ⟨l, d⟩ := c
    unfold write
    split
    · simp [read_consCell, h]
    · split
      · subst_vars; simp [read_consCell, h, read]
      · simp [read, ih]

/-- A read of the written location gives the written byte, in a canonical list. -/
theorem read_write_same (m : Memory) (loc : Nat) (b : Byte) (h : m.wf) : read (m.write loc b) loc = b := by
  induction m with
  | nil => by_cases hb : b = unlistedByte loc <;> simp [write, consCell, read, hb]
  | cons c m ih =>
    obtain ⟨l, d⟩ := c
    obtain ⟨hp, hd⟩ := h
    rw [List.pairwise_cons] at hp
    have hlow : ∀ {a}, a ≤ l → ∀ e ∈ m, a < e.1 := fun ha e he => Nat.lt_of_le_of_lt ha (hp.1 e he)
    unfold write
    split
    · next hlt =>
      rw [read_consCell, if_pos rfl]
      split
      · next hb =>
        rw [hb, read_of_lt]
        intro e he
        rcases List.mem_cons.1 he with rfl | he
        · exact hlt
        · exact hlow hlt.le e he
      · rfl
    · split
      · next heq =>
        rw [read_consCell, if_pos rfl]
        split
        · next hb => rw [hb, read_of_lt _ _ (hlow heq.le)]
        · rfl
      · next hne =>
        simp only [read, if_neg hne]
        exact ih ⟨hp.2, fun e he => hd e (by simp [he])⟩

theorem read_write (m : Memory) (loc a : Nat) (b : Byte) (h : m.wf) :
    read (m.write loc b) a = if a = loc then b else read m a := by
  by_cases ha : a = loc
  · subst ha; simp [read_write_same m a b h]
  · simp [ha, read_write_ne m loc a b ha]

/-! ### What a write lists -/

/-- Every cell after a write is an old cell or the written one, which is not what an unlisted location reads as. -/
theorem mem_write (m : Memory) (loc : Nat) (b : Byte) (c : Host.Cell) (h : c ∈ m.write loc b) :
    c ∈ m ∨ (c = (loc, b) ∧ b ≠ unlistedByte loc) := by
  induction m with
  | nil =>
    unfold write consCell at h
    split at h <;> simp_all
  | cons d m ih =>
    obtain ⟨l, e⟩ := d
    unfold write consCell at h
    split at h
    · split at h <;> simp_all; tauto
    · split at h
      · split at h <;> simp_all; tauto
      · rcases List.mem_cons.1 h with rfl | h
        · simp
        · rcases ih h with h | h
          · simp [h]
          · exact Or.inr h

/-- A write keeps the canonical form. -/
theorem wf_write (m : Memory) (loc : Nat) (b : Byte) (h : m.wf) : (m.write loc b).wf := by
  refine ⟨?_, fun c hc => ?_⟩
  · obtain ⟨hp, -⟩ := h
    induction m with
    | nil => unfold write consCell; split <;> simp
    | cons d m ih =>
      obtain ⟨l, e⟩ := d
      have hp' := List.pairwise_cons.1 hp
      unfold write consCell
      split
      · next hlt =>
        split
        · exact hp
        · refine List.pairwise_cons.2 ⟨fun c hc => ?_, hp⟩
          rcases List.mem_cons.1 hc with rfl | hc
          · exact hlt
          · exact Nat.lt_trans hlt (hp'.1 c hc)
      · split
        · next heq =>
          split
          · exact hp'.2
          · exact List.pairwise_cons.2 ⟨fun c hc => heq ▸ hp'.1 c hc, hp'.2⟩
        · next hnlt hne =>
          refine List.pairwise_cons.2 ⟨fun c hc => ?_, ih hp'.2⟩
          rcases mem_write m loc b c hc with hc | ⟨rfl, -⟩
          · exact hp'.1 c hc
          · exact Nat.lt_of_le_of_ne (Nat.not_lt.1 hnlt) (Ne.symm hne)
  · rcases mem_write m loc b c hc with hc | ⟨rfl, hb⟩
    · exact h.2 c hc
    · exact hb

/-! ### Several bytes -/

/-- Byte `j` of a word, the least significant first (20_memory.md R163). -/
theorem read_writeBytes (m : Memory) (n loc : Nat) (v : Word) (a : Nat) (h : m.wf) :
    read (m.writeBytes n loc v) a =
      if loc ≤ a ∧ a < loc + n then (v >>> (8 * (a - loc))).setWidth 8 else read m a := by
  induction n generalizing m loc v with
  | zero => simp only [writeBytes]; rw [if_neg (by omega)]
  | succ n ih =>
    simp only [writeBytes]
    rw [ih _ _ _ (wf_write m loc _ h), read_write m loc a _ h]
    by_cases h1 : loc + 1 ≤ a ∧ a < loc + 1 + n
    · rw [if_pos h1, if_pos (by omega), ← BitVec.shiftRight_add]
      congr 2; omega
    · rw [if_neg h1]
      by_cases h2 : a = loc
      · subst h2; simp
      · rw [if_neg h2, if_neg (by omega)]

/-- Locations outside the written bytes keep their byte, in any list. -/
theorem read_writeBytes_outside (m : Memory) (n loc : Nat) (v : Word) (a : Nat)
    (h : a < loc ∨ loc + n ≤ a) : read (m.writeBytes n loc v) a = read m a := by
  induction n generalizing m loc v with
  | zero => rfl
  | succ n ih => simp only [writeBytes]; rw [ih _ _ _ (by omega), read_write_ne _ _ _ _ (by omega)]

theorem wf_writeBytes (m : Memory) (n loc : Nat) (v : Word) (h : m.wf) : (m.writeBytes n loc v).wf := by
  induction n generalizing m loc v with
  | zero => exact h
  | succ n ih => exact ih _ _ _ (wf_write m loc _ h)

/-- Every cell after a multi-byte write is an old one or one of the written locations. -/
theorem mem_writeBytes (m : Memory) (n loc : Nat) (v : Word) (c : Host.Cell) (h : c ∈ m.writeBytes n loc v) :
    c ∈ m ∨ (loc ≤ c.1 ∧ c.1 < loc + n) := by
  induction n generalizing m loc v with
  | zero => exact Or.inl h
  | succ n ih =>
    rcases ih _ _ _ h with h | h
    · rcases mem_write _ _ _ _ h with h | ⟨rfl, -⟩
      · exact Or.inl h
      · exact Or.inr ⟨le_refl _, by simp⟩
    · exact Or.inr (by omega)

/-! ### Dropping locations -/

theorem wf_filter (m : Memory) (keep : Host.Cell → Bool) (h : m.wf) : wf (m.filter keep) :=
  ⟨h.1.filter _, fun c hc => h.2 c (List.mem_filter.1 hc).1⟩

/-- A location whose cells are all kept reads as before. -/
theorem read_filter_kept (m : Memory) (keep : Nat → Bool) (a : Nat) (h : keep a = true) :
    read (m.filter (fun c => keep c.1)) a = read m a := by
  induction m with
  | nil => rfl
  | cons c m ih =>
    obtain ⟨l, b⟩ := c
    by_cases hl : a = l
    · subst hl; simp [h, read]
    · by_cases hk : keep l <;> simp [hk, read, hl, ih]

/-- A location whose cells are all dropped reads as unlisted. -/
theorem read_filter_dropped (m : Memory) (keep : Nat → Bool) (a : Nat) (h : keep a = false) :
    read (m.filter (fun c => keep c.1)) a = unlistedByte a := by
  induction m with
  | nil => rfl
  | cons c m ih =>
    obtain ⟨l, b⟩ := c
    by_cases hl : a = l
    · subst hl; simp [h, ih]
    · by_cases hk : keep l <;> simp [hk, read, hl, ih]

end Sys2Proof.Machine.Memory
end

