-- ==== Sys2Proof/Laws/State.lean ====
section
/-! SUPPORT. One lemma per field per named update of the state, true by unfolding, so that no later proof unfolds a
record update. -/

namespace Sys2Proof.Machine

/-! ### writeReg -/

section
variable (s : State) (i : RegIdx) (v : Word)

@[simp] theorem writeReg_s1 : (s.writeReg i v).s1 = setStage s.s1 i v := rfl
@[simp] theorem writeReg_s2 : (s.writeReg i v).s2 = setStage s.s2 i v := rfl
@[simp] theorem writeReg_s3 : (s.writeReg i v).s3 = setStage s.s3 i v := rfl
@[simp] theorem writeReg_hi : (s.writeReg i v).hi = s.hi := rfl
@[simp] theorem writeReg_lo : (s.writeReg i v).lo = s.lo := rfl
@[simp] theorem writeReg_currentPc : (s.writeReg i v).currentPc = s.currentPc := rfl
@[simp] theorem writeReg_currentInstruction : (s.writeReg i v).currentInstruction = s.currentInstruction := rfl
@[simp] theorem writeReg_currentFault : (s.writeReg i v).currentFault = s.currentFault := rfl
@[simp] theorem writeReg_nextInstruction : (s.writeReg i v).nextInstruction = s.nextInstruction := rfl
@[simp] theorem writeReg_nextInstructionPc : (s.writeReg i v).nextInstructionPc = s.nextInstructionPc := rfl
@[simp] theorem writeReg_nextInstructionFault : (s.writeReg i v).nextInstructionFault = s.nextInstructionFault := rfl
@[simp] theorem writeReg_nextPc : (s.writeReg i v).nextPc = s.nextPc := rfl
@[simp] theorem writeReg_inDelaySlot : (s.writeReg i v).inDelaySlot = s.inDelaySlot := rfl
@[simp] theorem writeReg_branchTaken : (s.writeReg i v).branchTaken = s.branchTaken := rfl
@[simp] theorem writeReg_cp0 : (s.writeReg i v).cp0 = s.cp0 := rfl
@[simp] theorem writeReg_iStat : (s.writeReg i v).iStat = s.iStat := rfl
@[simp] theorem writeReg_iMask : (s.writeReg i v).iMask = s.iMask := rfl
@[simp] theorem writeReg_mem : (s.writeReg i v).mem = s.mem := rfl
@[simp] theorem writeReg_ioClaims : (s.writeReg i v).ioClaims = s.ioClaims := rfl
@[simp] theorem writeReg_draws : (s.writeReg i v).draws = s.draws := rfl
@[simp] theorem writeReg_events : (s.writeReg i v).events = s.events := rfl
@[simp] theorem writeReg_env : (s.writeReg i v).env = s.env := rfl

end

/-! ### writeDelayed -/

section
variable (s : State) (i : RegIdx) (v : Word)

@[simp] theorem writeDelayed_s1 : (s.writeDelayed i v).s1 = setStage s.s1 i v := rfl
@[simp] theorem writeDelayed_s2 : (s.writeDelayed i v).s2 = s.s2 := rfl
@[simp] theorem writeDelayed_s3 : (s.writeDelayed i v).s3 = s.s3 := rfl
@[simp] theorem writeDelayed_hi : (s.writeDelayed i v).hi = s.hi := rfl
@[simp] theorem writeDelayed_lo : (s.writeDelayed i v).lo = s.lo := rfl
@[simp] theorem writeDelayed_currentPc : (s.writeDelayed i v).currentPc = s.currentPc := rfl
@[simp] theorem writeDelayed_currentInstruction : (s.writeDelayed i v).currentInstruction = s.currentInstruction := rfl
@[simp] theorem writeDelayed_currentFault : (s.writeDelayed i v).currentFault = s.currentFault := rfl
@[simp] theorem writeDelayed_nextInstruction : (s.writeDelayed i v).nextInstruction = s.nextInstruction := rfl
@[simp] theorem writeDelayed_nextInstructionPc : (s.writeDelayed i v).nextInstructionPc = s.nextInstructionPc := rfl
@[simp] theorem writeDelayed_nextInstructionFault : (s.writeDelayed i v).nextInstructionFault = s.nextInstructionFault := rfl
@[simp] theorem writeDelayed_nextPc : (s.writeDelayed i v).nextPc = s.nextPc := rfl
@[simp] theorem writeDelayed_inDelaySlot : (s.writeDelayed i v).inDelaySlot = s.inDelaySlot := rfl
@[simp] theorem writeDelayed_branchTaken : (s.writeDelayed i v).branchTaken = s.branchTaken := rfl
@[simp] theorem writeDelayed_cp0 : (s.writeDelayed i v).cp0 = s.cp0 := rfl
@[simp] theorem writeDelayed_iStat : (s.writeDelayed i v).iStat = s.iStat := rfl
@[simp] theorem writeDelayed_iMask : (s.writeDelayed i v).iMask = s.iMask := rfl
@[simp] theorem writeDelayed_mem : (s.writeDelayed i v).mem = s.mem := rfl
@[simp] theorem writeDelayed_ioClaims : (s.writeDelayed i v).ioClaims = s.ioClaims := rfl
@[simp] theorem writeDelayed_draws : (s.writeDelayed i v).draws = s.draws := rfl
@[simp] theorem writeDelayed_events : (s.writeDelayed i v).events = s.events := rfl
@[simp] theorem writeDelayed_env : (s.writeDelayed i v).env = s.env := rfl

end

/-! ### advance -/

section
variable (s : State)

@[simp] theorem advance_s1 : (s.advance).s1 = s.s1 := rfl
@[simp] theorem advance_s2 : (s.advance).s2 = s.s1 := rfl
@[simp] theorem advance_s3 : (s.advance).s3 = s.s2 := rfl
@[simp] theorem advance_hi : (s.advance).hi = s.hi := rfl
@[simp] theorem advance_lo : (s.advance).lo = s.lo := rfl
@[simp] theorem advance_currentPc : (s.advance).currentPc = s.currentPc := rfl
@[simp] theorem advance_currentInstruction : (s.advance).currentInstruction = s.currentInstruction := rfl
@[simp] theorem advance_currentFault : (s.advance).currentFault = s.currentFault := rfl
@[simp] theorem advance_nextInstruction : (s.advance).nextInstruction = s.nextInstruction := rfl
@[simp] theorem advance_nextInstructionPc : (s.advance).nextInstructionPc = s.nextInstructionPc := rfl
@[simp] theorem advance_nextInstructionFault : (s.advance).nextInstructionFault = s.nextInstructionFault := rfl
@[simp] theorem advance_nextPc : (s.advance).nextPc = s.nextPc := rfl
@[simp] theorem advance_inDelaySlot : (s.advance).inDelaySlot = s.inDelaySlot := rfl
@[simp] theorem advance_branchTaken : (s.advance).branchTaken = s.branchTaken := rfl
@[simp] theorem advance_cp0 : (s.advance).cp0 = s.cp0 := rfl
@[simp] theorem advance_iStat : (s.advance).iStat = s.iStat := rfl
@[simp] theorem advance_iMask : (s.advance).iMask = s.iMask := rfl
@[simp] theorem advance_mem : (s.advance).mem = s.mem := rfl
@[simp] theorem advance_ioClaims : (s.advance).ioClaims = s.ioClaims := rfl
@[simp] theorem advance_draws : (s.advance).draws = s.draws := rfl
@[simp] theorem advance_events : (s.advance).events = s.events := rfl
@[simp] theorem advance_env : (s.advance).env = s.env := rfl

end

/-! ### writeCp0 -/

section
variable (s : State) (n : RegIdx) (v : Word)

@[simp] theorem writeCp0_s1 : (s.writeCp0 n v).s1 = s.s1 := rfl
@[simp] theorem writeCp0_s2 : (s.writeCp0 n v).s2 = s.s2 := rfl
@[simp] theorem writeCp0_s3 : (s.writeCp0 n v).s3 = s.s3 := rfl
@[simp] theorem writeCp0_hi : (s.writeCp0 n v).hi = s.hi := rfl
@[simp] theorem writeCp0_lo : (s.writeCp0 n v).lo = s.lo := rfl
@[simp] theorem writeCp0_currentPc : (s.writeCp0 n v).currentPc = s.currentPc := rfl
@[simp] theorem writeCp0_currentInstruction : (s.writeCp0 n v).currentInstruction = s.currentInstruction := rfl
@[simp] theorem writeCp0_currentFault : (s.writeCp0 n v).currentFault = s.currentFault := rfl
@[simp] theorem writeCp0_nextInstruction : (s.writeCp0 n v).nextInstruction = s.nextInstruction := rfl
@[simp] theorem writeCp0_nextInstructionPc : (s.writeCp0 n v).nextInstructionPc = s.nextInstructionPc := rfl
@[simp] theorem writeCp0_nextInstructionFault : (s.writeCp0 n v).nextInstructionFault = s.nextInstructionFault := rfl
@[simp] theorem writeCp0_nextPc : (s.writeCp0 n v).nextPc = s.nextPc := rfl
@[simp] theorem writeCp0_inDelaySlot : (s.writeCp0 n v).inDelaySlot = s.inDelaySlot := rfl
@[simp] theorem writeCp0_branchTaken : (s.writeCp0 n v).branchTaken = s.branchTaken := rfl
@[simp] theorem writeCp0_cp0 : (s.writeCp0 n v).cp0 = setSlot s.cp0 n v := rfl
@[simp] theorem writeCp0_iStat : (s.writeCp0 n v).iStat = s.iStat := rfl
@[simp] theorem writeCp0_iMask : (s.writeCp0 n v).iMask = s.iMask := rfl
@[simp] theorem writeCp0_mem : (s.writeCp0 n v).mem = s.mem := rfl
@[simp] theorem writeCp0_ioClaims : (s.writeCp0 n v).ioClaims = s.ioClaims := rfl
@[simp] theorem writeCp0_draws : (s.writeCp0 n v).draws = s.draws := rfl
@[simp] theorem writeCp0_events : (s.writeCp0 n v).events = s.events := rfl
@[simp] theorem writeCp0_env : (s.writeCp0 n v).env = s.env := rfl

end

/-! ### writeHiLo -/

section
variable (s : State) (hi lo : Word)

@[simp] theorem writeHiLo_s1 : (s.writeHiLo hi lo).s1 = s.s1 := rfl
@[simp] theorem writeHiLo_s2 : (s.writeHiLo hi lo).s2 = s.s2 := rfl
@[simp] theorem writeHiLo_s3 : (s.writeHiLo hi lo).s3 = s.s3 := rfl
@[simp] theorem writeHiLo_hi : (s.writeHiLo hi lo).hi = hi := rfl
@[simp] theorem writeHiLo_lo : (s.writeHiLo hi lo).lo = lo := rfl
@[simp] theorem writeHiLo_currentPc : (s.writeHiLo hi lo).currentPc = s.currentPc := rfl
@[simp] theorem writeHiLo_currentInstruction : (s.writeHiLo hi lo).currentInstruction = s.currentInstruction := rfl
@[simp] theorem writeHiLo_currentFault : (s.writeHiLo hi lo).currentFault = s.currentFault := rfl
@[simp] theorem writeHiLo_nextInstruction : (s.writeHiLo hi lo).nextInstruction = s.nextInstruction := rfl
@[simp] theorem writeHiLo_nextInstructionPc : (s.writeHiLo hi lo).nextInstructionPc = s.nextInstructionPc := rfl
@[simp] theorem writeHiLo_nextInstructionFault : (s.writeHiLo hi lo).nextInstructionFault = s.nextInstructionFault := rfl
@[simp] theorem writeHiLo_nextPc : (s.writeHiLo hi lo).nextPc = s.nextPc := rfl
@[simp] theorem writeHiLo_inDelaySlot : (s.writeHiLo hi lo).inDelaySlot = s.inDelaySlot := rfl
@[simp] theorem writeHiLo_branchTaken : (s.writeHiLo hi lo).branchTaken = s.branchTaken := rfl
@[simp] theorem writeHiLo_cp0 : (s.writeHiLo hi lo).cp0 = s.cp0 := rfl
@[simp] theorem writeHiLo_iStat : (s.writeHiLo hi lo).iStat = s.iStat := rfl
@[simp] theorem writeHiLo_iMask : (s.writeHiLo hi lo).iMask = s.iMask := rfl
@[simp] theorem writeHiLo_mem : (s.writeHiLo hi lo).mem = s.mem := rfl
@[simp] theorem writeHiLo_ioClaims : (s.writeHiLo hi lo).ioClaims = s.ioClaims := rfl
@[simp] theorem writeHiLo_draws : (s.writeHiLo hi lo).draws = s.draws := rfl
@[simp] theorem writeHiLo_events : (s.writeHiLo hi lo).events = s.events := rfl
@[simp] theorem writeHiLo_env : (s.writeHiLo hi lo).env = s.env := rfl

end

/-! ### record -/

section
variable (s : State) (e : ExternalEvent)

@[simp] theorem record_s1 : (s.record e).s1 = s.s1 := rfl
@[simp] theorem record_s2 : (s.record e).s2 = s.s2 := rfl
@[simp] theorem record_s3 : (s.record e).s3 = s.s3 := rfl
@[simp] theorem record_hi : (s.record e).hi = s.hi := rfl
@[simp] theorem record_lo : (s.record e).lo = s.lo := rfl
@[simp] theorem record_currentPc : (s.record e).currentPc = s.currentPc := rfl
@[simp] theorem record_currentInstruction : (s.record e).currentInstruction = s.currentInstruction := rfl
@[simp] theorem record_currentFault : (s.record e).currentFault = s.currentFault := rfl
@[simp] theorem record_nextInstruction : (s.record e).nextInstruction = s.nextInstruction := rfl
@[simp] theorem record_nextInstructionPc : (s.record e).nextInstructionPc = s.nextInstructionPc := rfl
@[simp] theorem record_nextInstructionFault : (s.record e).nextInstructionFault = s.nextInstructionFault := rfl
@[simp] theorem record_nextPc : (s.record e).nextPc = s.nextPc := rfl
@[simp] theorem record_inDelaySlot : (s.record e).inDelaySlot = s.inDelaySlot := rfl
@[simp] theorem record_branchTaken : (s.record e).branchTaken = s.branchTaken := rfl
@[simp] theorem record_cp0 : (s.record e).cp0 = s.cp0 := rfl
@[simp] theorem record_iStat : (s.record e).iStat = s.iStat := rfl
@[simp] theorem record_iMask : (s.record e).iMask = s.iMask := rfl
@[simp] theorem record_mem : (s.record e).mem = s.mem := rfl
@[simp] theorem record_ioClaims : (s.record e).ioClaims = s.ioClaims := rfl
@[simp] theorem record_draws : (s.record e).draws = s.draws := rfl
@[simp] theorem record_events : (s.record e).events = s.events ++ [e] := rfl
@[simp] theorem record_env : (s.record e).env = s.env := rfl

end

/-! ### transfer -/

section
variable (s : State) (target : Word)

@[simp] theorem transfer_s1 : (transfer target s).s1 = s.s1 := rfl
@[simp] theorem transfer_s2 : (transfer target s).s2 = s.s2 := rfl
@[simp] theorem transfer_s3 : (transfer target s).s3 = s.s3 := rfl
@[simp] theorem transfer_hi : (transfer target s).hi = s.hi := rfl
@[simp] theorem transfer_lo : (transfer target s).lo = s.lo := rfl
@[simp] theorem transfer_currentPc : (transfer target s).currentPc = s.currentPc := rfl
@[simp] theorem transfer_currentInstruction : (transfer target s).currentInstruction = s.currentInstruction := rfl
@[simp] theorem transfer_currentFault : (transfer target s).currentFault = s.currentFault := rfl
@[simp] theorem transfer_nextInstruction : (transfer target s).nextInstruction = s.nextInstruction := rfl
@[simp] theorem transfer_nextInstructionPc : (transfer target s).nextInstructionPc = s.nextInstructionPc := rfl
@[simp] theorem transfer_nextInstructionFault : (transfer target s).nextInstructionFault = s.nextInstructionFault := rfl
@[simp] theorem transfer_nextPc : (transfer target s).nextPc = target := rfl
@[simp] theorem transfer_inDelaySlot : (transfer target s).inDelaySlot = s.inDelaySlot := rfl
@[simp] theorem transfer_branchTaken : (transfer target s).branchTaken = true := rfl
@[simp] theorem transfer_cp0 : (transfer target s).cp0 = s.cp0 := rfl
@[simp] theorem transfer_iStat : (transfer target s).iStat = s.iStat := rfl
@[simp] theorem transfer_iMask : (transfer target s).iMask = s.iMask := rfl
@[simp] theorem transfer_mem : (transfer target s).mem = s.mem := rfl
@[simp] theorem transfer_ioClaims : (transfer target s).ioClaims = s.ioClaims := rfl
@[simp] theorem transfer_draws : (transfer target s).draws = s.draws := rfl
@[simp] theorem transfer_events : (transfer target s).events = s.events := rfl
@[simp] theorem transfer_env : (transfer target s).env = s.env := rfl

end

/-! ### redirect -/

section
variable (s : State) (v : Word)

@[simp] theorem redirect_s1 : (redirect v s).s1 = s.s1 := rfl
@[simp] theorem redirect_s2 : (redirect v s).s2 = s.s2 := rfl
@[simp] theorem redirect_s3 : (redirect v s).s3 = s.s3 := rfl
@[simp] theorem redirect_hi : (redirect v s).hi = s.hi := rfl
@[simp] theorem redirect_lo : (redirect v s).lo = s.lo := rfl
@[simp] theorem redirect_currentPc : (redirect v s).currentPc = s.currentPc := rfl
@[simp] theorem redirect_currentInstruction : (redirect v s).currentInstruction = s.currentInstruction := rfl
@[simp] theorem redirect_currentFault : (redirect v s).currentFault = s.currentFault := rfl
@[simp] theorem redirect_nextInstruction : (redirect v s).nextInstruction = 0#32 := rfl
@[simp] theorem redirect_nextInstructionPc : (redirect v s).nextInstructionPc = v - 4#32 := rfl
@[simp] theorem redirect_nextInstructionFault : (redirect v s).nextInstructionFault = .none := rfl
@[simp] theorem redirect_nextPc : (redirect v s).nextPc = v := rfl
@[simp] theorem redirect_inDelaySlot : (redirect v s).inDelaySlot = s.inDelaySlot := rfl
@[simp] theorem redirect_branchTaken : (redirect v s).branchTaken = false := rfl
@[simp] theorem redirect_cp0 : (redirect v s).cp0 = s.cp0 := rfl
@[simp] theorem redirect_iStat : (redirect v s).iStat = s.iStat := rfl
@[simp] theorem redirect_iMask : (redirect v s).iMask = s.iMask := rfl
@[simp] theorem redirect_mem : (redirect v s).mem = s.mem := rfl
@[simp] theorem redirect_ioClaims : (redirect v s).ioClaims = s.ioClaims := rfl
@[simp] theorem redirect_draws : (redirect v s).draws = s.draws := rfl
@[simp] theorem redirect_events : (redirect v s).events = s.events := rfl
@[simp] theorem redirect_env : (redirect v s).env = s.env := rfl

end

/-! ### enterException -/

section
variable (s : State) (e : Exc)

@[simp] theorem enterException_s1 : (enterException e s).s1 = s.s1 := rfl
@[simp] theorem enterException_s2 : (enterException e s).s2 = s.s2 := rfl
@[simp] theorem enterException_s3 : (enterException e s).s3 = s.s3 := rfl
@[simp] theorem enterException_hi : (enterException e s).hi = s.hi := rfl
@[simp] theorem enterException_lo : (enterException e s).lo = s.lo := rfl
@[simp] theorem enterException_currentPc : (enterException e s).currentPc = s.currentPc := rfl
@[simp] theorem enterException_currentInstruction : (enterException e s).currentInstruction = s.currentInstruction := rfl
@[simp] theorem enterException_currentFault : (enterException e s).currentFault = s.currentFault := rfl
@[simp] theorem enterException_nextInstruction : (enterException e s).nextInstruction = 0#32 := rfl
@[simp] theorem enterException_nextInstructionPc : (enterException e s).nextInstructionPc = exceptionVector s.sr - 4#32 := rfl
@[simp] theorem enterException_nextInstructionFault : (enterException e s).nextInstructionFault = .none := rfl
@[simp] theorem enterException_nextPc : (enterException e s).nextPc = exceptionVector s.sr := rfl
@[simp] theorem enterException_inDelaySlot : (enterException e s).inDelaySlot = s.inDelaySlot := rfl
@[simp] theorem enterException_branchTaken : (enterException e s).branchTaken = false := rfl
@[simp] theorem enterException_cp0 : (enterException e s).cp0 = cp0OnEntry e s := rfl
@[simp] theorem enterException_iStat : (enterException e s).iStat = s.iStat := rfl
@[simp] theorem enterException_iMask : (enterException e s).iMask = s.iMask := rfl
@[simp] theorem enterException_mem : (enterException e s).mem = s.mem := rfl
@[simp] theorem enterException_ioClaims : (enterException e s).ioClaims = s.ioClaims := rfl
@[simp] theorem enterException_draws : (enterException e s).draws = s.draws := rfl
@[simp] theorem enterException_events : (enterException e s).events = s.events := rfl
@[simp] theorem enterException_env : (enterException e s).env = s.env := rfl

end

/-! ### returnFromException -/

section
variable (s : State)

@[simp] theorem returnFromException_s1 : (returnFromException s).s1 = s.s1 := rfl
@[simp] theorem returnFromException_s2 : (returnFromException s).s2 = s.s2 := rfl
@[simp] theorem returnFromException_s3 : (returnFromException s).s3 = s.s3 := rfl
@[simp] theorem returnFromException_hi : (returnFromException s).hi = s.hi := rfl
@[simp] theorem returnFromException_lo : (returnFromException s).lo = s.lo := rfl
@[simp] theorem returnFromException_currentPc : (returnFromException s).currentPc = s.currentPc := rfl
@[simp] theorem returnFromException_currentInstruction : (returnFromException s).currentInstruction = s.currentInstruction := rfl
@[simp] theorem returnFromException_currentFault : (returnFromException s).currentFault = s.currentFault := rfl
@[simp] theorem returnFromException_nextInstruction : (returnFromException s).nextInstruction = s.nextInstruction := rfl
@[simp] theorem returnFromException_nextInstructionPc : (returnFromException s).nextInstructionPc = s.nextInstructionPc := rfl
@[simp] theorem returnFromException_nextInstructionFault : (returnFromException s).nextInstructionFault = s.nextInstructionFault := rfl
@[simp] theorem returnFromException_nextPc : (returnFromException s).nextPc = s.nextPc := rfl
@[simp] theorem returnFromException_inDelaySlot : (returnFromException s).inDelaySlot = s.inDelaySlot := rfl
@[simp] theorem returnFromException_branchTaken : (returnFromException s).branchTaken = s.branchTaken := rfl
@[simp] theorem returnFromException_cp0 : (returnFromException s).cp0 = setSlot s.cp0 12#5 (popModeStack s.sr) := rfl
@[simp] theorem returnFromException_iStat : (returnFromException s).iStat = s.iStat := rfl
@[simp] theorem returnFromException_iMask : (returnFromException s).iMask = s.iMask := rfl
@[simp] theorem returnFromException_mem : (returnFromException s).mem = s.mem := rfl
@[simp] theorem returnFromException_ioClaims : (returnFromException s).ioClaims = s.ioClaims := rfl
@[simp] theorem returnFromException_draws : (returnFromException s).draws = s.draws := rfl
@[simp] theorem returnFromException_events : (returnFromException s).events = s.events := rfl
@[simp] theorem returnFromException_env : (returnFromException s).env = s.env := rfl

end

/-! ### promote -/

section
variable (s : State)

@[simp] theorem promote_s1 : (promote s).s1 = s.s1 := rfl
@[simp] theorem promote_s2 : (promote s).s2 = s.s2 := rfl
@[simp] theorem promote_s3 : (promote s).s3 = s.s3 := rfl
@[simp] theorem promote_hi : (promote s).hi = s.hi := rfl
@[simp] theorem promote_lo : (promote s).lo = s.lo := rfl
@[simp] theorem promote_currentPc : (promote s).currentPc = s.nextInstructionPc := rfl
@[simp] theorem promote_currentInstruction : (promote s).currentInstruction = s.nextInstruction := rfl
@[simp] theorem promote_currentFault : (promote s).currentFault = s.nextInstructionFault := rfl
@[simp] theorem promote_nextInstruction : (promote s).nextInstruction = s.nextInstruction := rfl
@[simp] theorem promote_nextInstructionPc : (promote s).nextInstructionPc = s.nextInstructionPc := rfl
@[simp] theorem promote_nextInstructionFault : (promote s).nextInstructionFault = s.nextInstructionFault := rfl
@[simp] theorem promote_nextPc : (promote s).nextPc = s.nextPc := rfl
@[simp] theorem promote_inDelaySlot : (promote s).inDelaySlot = s.branchTaken := rfl
@[simp] theorem promote_branchTaken : (promote s).branchTaken = false := rfl
@[simp] theorem promote_cp0 : (promote s).cp0 = s.cp0 := rfl
@[simp] theorem promote_iStat : (promote s).iStat = s.iStat := rfl
@[simp] theorem promote_iMask : (promote s).iMask = s.iMask := rfl
@[simp] theorem promote_mem : (promote s).mem = s.mem := rfl
@[simp] theorem promote_ioClaims : (promote s).ioClaims = s.ioClaims := rfl
@[simp] theorem promote_draws : (promote s).draws = s.draws := rfl
@[simp] theorem promote_events : (promote s).events = s.events := rfl
@[simp] theorem promote_env : (promote s).env = s.env := rfl

end

/-! ### sampleInterrupt -/

section
variable (s : State)

@[simp] theorem sampleInterrupt_s1 : (sampleInterrupt s).s1 = s.s1 := rfl
@[simp] theorem sampleInterrupt_s2 : (sampleInterrupt s).s2 = s.s2 := rfl
@[simp] theorem sampleInterrupt_s3 : (sampleInterrupt s).s3 = s.s3 := rfl
@[simp] theorem sampleInterrupt_hi : (sampleInterrupt s).hi = s.hi := rfl
@[simp] theorem sampleInterrupt_lo : (sampleInterrupt s).lo = s.lo := rfl
@[simp] theorem sampleInterrupt_currentPc : (sampleInterrupt s).currentPc = s.currentPc := rfl
@[simp] theorem sampleInterrupt_currentInstruction : (sampleInterrupt s).currentInstruction = s.currentInstruction := rfl
@[simp] theorem sampleInterrupt_currentFault : (sampleInterrupt s).currentFault = s.currentFault := rfl
@[simp] theorem sampleInterrupt_nextInstruction : (sampleInterrupt s).nextInstruction = s.nextInstruction := rfl
@[simp] theorem sampleInterrupt_nextInstructionPc : (sampleInterrupt s).nextInstructionPc = s.nextInstructionPc := rfl
@[simp] theorem sampleInterrupt_nextInstructionFault : (sampleInterrupt s).nextInstructionFault = s.nextInstructionFault := rfl
@[simp] theorem sampleInterrupt_nextPc : (sampleInterrupt s).nextPc = s.nextPc := rfl
@[simp] theorem sampleInterrupt_inDelaySlot : (sampleInterrupt s).inDelaySlot = s.inDelaySlot := rfl
@[simp] theorem sampleInterrupt_branchTaken : (sampleInterrupt s).branchTaken = s.branchTaken := rfl
@[simp] theorem sampleInterrupt_cp0 : (sampleInterrupt s).cp0 = setSlot s.cp0 13#5 (sampleCause s.cause (interruptRequest s.iStat s.iMask)) := rfl
@[simp] theorem sampleInterrupt_iStat : (sampleInterrupt s).iStat = s.iStat := rfl
@[simp] theorem sampleInterrupt_iMask : (sampleInterrupt s).iMask = s.iMask := rfl
@[simp] theorem sampleInterrupt_mem : (sampleInterrupt s).mem = s.mem := rfl
@[simp] theorem sampleInterrupt_ioClaims : (sampleInterrupt s).ioClaims = s.ioClaims := rfl
@[simp] theorem sampleInterrupt_draws : (sampleInterrupt s).draws = s.draws := rfl
@[simp] theorem sampleInterrupt_events : (sampleInterrupt s).events = s.events := rfl
@[simp] theorem sampleInterrupt_env : (sampleInterrupt s).env = s.env := rfl

end

/-! ### endTick -/

section
variable (s : State)

@[simp] theorem endTick_s1 : (endTick s).s1 = s.s1 := rfl
@[simp] theorem endTick_s2 : (endTick s).s2 = s.s1 := rfl
@[simp] theorem endTick_s3 : (endTick s).s3 = s.s2 := rfl
@[simp] theorem endTick_hi : (endTick s).hi = s.hi := rfl
@[simp] theorem endTick_lo : (endTick s).lo = s.lo := rfl
@[simp] theorem endTick_currentPc : (endTick s).currentPc = s.currentPc := rfl
@[simp] theorem endTick_currentInstruction : (endTick s).currentInstruction = s.currentInstruction := rfl
@[simp] theorem endTick_currentFault : (endTick s).currentFault = s.currentFault := rfl
@[simp] theorem endTick_nextInstruction : (endTick s).nextInstruction = s.nextInstruction := rfl
@[simp] theorem endTick_nextInstructionPc : (endTick s).nextInstructionPc = s.nextInstructionPc := rfl
@[simp] theorem endTick_nextInstructionFault : (endTick s).nextInstructionFault = s.nextInstructionFault := rfl
@[simp] theorem endTick_nextPc : (endTick s).nextPc = s.nextPc := rfl
@[simp] theorem endTick_inDelaySlot : (endTick s).inDelaySlot = false := rfl
@[simp] theorem endTick_branchTaken : (endTick s).branchTaken = s.branchTaken := rfl
@[simp] theorem endTick_cp0 : (endTick s).cp0 = s.cp0 := rfl
@[simp] theorem endTick_iStat : (endTick s).iStat = s.iStat := rfl
@[simp] theorem endTick_iMask : (endTick s).iMask = s.iMask := rfl
@[simp] theorem endTick_mem : (endTick s).mem = s.mem := rfl
@[simp] theorem endTick_ioClaims : (endTick s).ioClaims = s.ioClaims := rfl
@[simp] theorem endTick_draws : (endTick s).draws = s.draws := rfl
@[simp] theorem endTick_events : (endTick s).events = s.events := rfl
@[simp] theorem endTick_env : (endTick s).env = s.env := rfl

end

/-! ### link -/

section
variable (s : State) (r : RegIdx)

@[simp] theorem link_s1 : (link r s).s1 = setStage s.s1 r s.nextPc := rfl
@[simp] theorem link_s2 : (link r s).s2 = setStage s.s2 r s.nextPc := rfl
@[simp] theorem link_s3 : (link r s).s3 = setStage s.s3 r s.nextPc := rfl
@[simp] theorem link_hi : (link r s).hi = s.hi := rfl
@[simp] theorem link_lo : (link r s).lo = s.lo := rfl
@[simp] theorem link_currentPc : (link r s).currentPc = s.currentPc := rfl
@[simp] theorem link_currentInstruction : (link r s).currentInstruction = s.currentInstruction := rfl
@[simp] theorem link_currentFault : (link r s).currentFault = s.currentFault := rfl
@[simp] theorem link_nextInstruction : (link r s).nextInstruction = s.nextInstruction := rfl
@[simp] theorem link_nextInstructionPc : (link r s).nextInstructionPc = s.nextInstructionPc := rfl
@[simp] theorem link_nextInstructionFault : (link r s).nextInstructionFault = s.nextInstructionFault := rfl
@[simp] theorem link_nextPc : (link r s).nextPc = s.nextPc := rfl
@[simp] theorem link_inDelaySlot : (link r s).inDelaySlot = s.inDelaySlot := rfl
@[simp] theorem link_branchTaken : (link r s).branchTaken = s.branchTaken := rfl
@[simp] theorem link_cp0 : (link r s).cp0 = s.cp0 := rfl
@[simp] theorem link_iStat : (link r s).iStat = s.iStat := rfl
@[simp] theorem link_iMask : (link r s).iMask = s.iMask := rfl
@[simp] theorem link_mem : (link r s).mem = s.mem := rfl
@[simp] theorem link_ioClaims : (link r s).ioClaims = s.ioClaims := rfl
@[simp] theorem link_draws : (link r s).draws = s.draws := rfl
@[simp] theorem link_events : (link r s).events = s.events := rfl
@[simp] theorem link_env : (link r s).env = s.env := rfl

end

end Sys2Proof.Machine
end

