-- ==== Sys2Proof/Laws/Ops.lean ====
section
/-! SUPPORT. One lemma per shared operation that says once what it can do; later proofs cite these and do not unfold
the operations. -/

namespace Sys2Proof.Machine

/-! ### Slots and stages -/

theorem slot_setSlot (v : Vector Word 32) (i j : RegIdx) (w : Word) :
    slot (setSlot v i w) j = if j = i then w else slot v j := by
  unfold slot setSlot
  rw [Vector.getElem_set]
  by_cases h : j = i
  · subst h; simp
  · rw [if_neg h, if_neg (fun e => h (BitVec.eq_of_toNat_eq e.symm))]

theorem slot_setStage (v : Vector Word 32) (i j : RegIdx) (w : Word) :
    slot (setStage v i w) j = if j = i ∧ i ≠ 0#5 then w else slot v j := by
  unfold setStage
  by_cases h : i = 0#5 <;> simp [h, slot_setSlot]

/-- Slot 0 of a stage is out of reach of every write. -/
@[simp] theorem slot_setStage_zero (v : Vector Word 32) (i : RegIdx) (w : Word) :
    slot (setStage v i w) 0#5 = slot v 0#5 := by
  rw [slot_setStage, if_neg]; rintro ⟨h, h'⟩; exact h' h.symm

@[simp] theorem x_zero (s : State) : s.x 0#5 = 0#32 := rfl
@[simp] theorem xf_zero (s : State) : s.xf 0#5 = 0#32 := rfl

theorem x_writeReg (s : State) (i j : RegIdx) (v : Word) :
    (s.writeReg i v).x j = if j = i ∧ i ≠ 0#5 then v else s.x j := by
  simp only [State.x, writeReg_s3, slot_setStage]
  by_cases hj : j = 0#5
  · subst hj; rw [if_pos rfl, if_pos rfl, if_neg]; rintro ⟨h, h'⟩; exact h' h.symm
  · simp [hj]

theorem cp0Reg_writeCp0 (s : State) (n m : RegIdx) (v : Word) :
    (s.writeCp0 n v).cp0Reg m = if m = n then v else s.cp0Reg m := slot_setSlot _ _ _ _

/-- An immediate write as claims speak of it. -/
theorem gprWritten_writeReg (s : State) (i : RegIdx) (v : Word) : GprWritten i v s (s.writeReg i v) := by
  refine ⟨fun h => ⟨?_, ?_, ?_⟩, fun q hq => ⟨?_, ?_, ?_⟩⟩ <;> simp [slot_setStage, *] <;>
    (intro a b; exact absurd ⟨a, b⟩ hq)

/-- A delayed write as claims speak of it. -/
theorem gprLoaded_writeDelayed (s : State) (i : RegIdx) (v : Word) : GprLoaded i v s (s.writeDelayed i v) := by
  refine ⟨fun h => ?_, fun q hq => ?_, rfl, rfl⟩ <;> simp [slot_setStage, *]
  intro a b; exact absurd ⟨a, b⟩ hq

/-! ### Exception entry -/

/-- Every CP0 register after the entry (60_exceptions.md R655). -/
theorem cp0Reg_enterException (e : Exc) (s : State) (n : RegIdx) :
    (enterException e s).cp0Reg n =
      if n = 14#5 then (if s.inDelaySlot then s.currentPc - 4#32 else s.currentPc)
      else if n = 13#5 then causeOnEntry s.cause s.inDelaySlot e.code e.ce
      else if n = 12#5 then pushModeStack s.sr
      else if n = 8#5 then e.badVAddr.getD s.badVAddr
      else s.cp0Reg n := by
  unfold State.cp0Reg
  rw [enterException_cp0]
  unfold cp0OnEntry
  cases e.badVAddr <;> simp only [slot_setSlot, Option.getD_some, Option.getD_none, State.badVAddr, State.cp0Reg] <;>
    by_cases h14 : n = 14#5 <;> by_cases h13 : n = 13#5 <;> by_cases h12 : n = 12#5 <;> by_cases h8 : n = 8#5 <;>
    simp_all

@[simp] theorem sr_enterException (e : Exc) (s : State) : (enterException e s).sr = pushModeStack s.sr := by
  rw [State.sr, cp0Reg_enterException]; rfl

/-! ### The checks of a data access (20_memory.md R165, R166) -/

theorem misaligned_eq_false (w : Width) (addr : Word) : misaligned w addr = false ↔ addr.toNat % w.bytes = 0 := by
  simp [misaligned]

theorem privileged_eq_false (s : State) (addr : Word) :
    privileged s addr = false ↔ ¬ (srKUc s.sr = true ∧ addr.msb = true) := by
  simp only [privileged, State.userMode, Bool.and_eq_false_iff, not_and_or, Bool.not_eq_true]

/-- The four things the checks come to. -/
theorem checkAccess_cases (a : Access) (report addr : Word) (w : Width) (s : State) :
    (¬ Permitted s addr w ∧ checkAccess a report addr w s = .raised (a.addressError report)) ∨
    (Permitted s addr w ∧ srIsC s.sr = true ∧ checkAccess a report addr w s = .isolated) ∨
    (Permitted s addr w ∧ srIsC s.sr = false ∧ route s.ioClaims addr = none ∧
      checkAccess a report addr w s = .raised .dbe) ∨
    (∃ t, Reaches s addr w t ∧ checkAccess a report addr w s = .target t) := by
  unfold checkAccess
  by_cases hm : misaligned w addr = true
  · exact Or.inl ⟨fun h => by simp [(misaligned_eq_false w addr).2 h.1] at hm, by rw [if_pos hm]⟩
  have hm' := (misaligned_eq_false w addr).1 (Bool.eq_false_iff.2 hm)
  by_cases hp : privileged s addr = true
  · exact Or.inl ⟨fun h => by simp [(privileged_eq_false s addr).2 h.2] at hp, by rw [if_neg hm, if_pos hp]⟩
  have hP : Permitted s addr w := ⟨hm', (privileged_eq_false s addr).1 (Bool.eq_false_iff.2 hp)⟩
  by_cases hi : srIsC s.sr = true
  · exact Or.inr (Or.inl ⟨hP, hi, by rw [if_neg hm, if_neg hp, if_pos hi]⟩)
  rw [if_neg hm, if_neg hp, if_neg hi]
  cases hr : route s.ioClaims addr with
  | none => exact Or.inr (Or.inr (Or.inl ⟨hP, Bool.eq_false_iff.2 hi, rfl, rfl⟩))
  | some t => exact Or.inr (Or.inr (Or.inr ⟨t, ⟨hP, Bool.eq_false_iff.2 hi, hr⟩, rfl⟩))

theorem checkAccess_of_reaches {s : State} {addr : Word} {w : Width} {t : Target} (h : Reaches s addr w t)
    (a : Access) (report : Word) : checkAccess a report addr w s = .target t := by
  rcases checkAccess_cases a report addr w s with ⟨h', -⟩ | ⟨-, h', -⟩ | ⟨-, -, h', -⟩ | ⟨t', h', e⟩
  · exact absurd h.1 h'
  · rw [h.2.1] at h'; simp at h'
  · rw [h.2.2] at h'; simp at h'
  · rw [e, Option.some.inj (h'.2.2.symm.trans h.2.2)]

theorem checkAccess_of_isolated {s : State} {addr : Word} {w : Width} (h : Permitted s addr w)
    (hi : srIsC s.sr = true) (a : Access) (report : Word) : checkAccess a report addr w s = .isolated := by
  rcases checkAccess_cases a report addr w s with ⟨h', -⟩ | ⟨-, -, e⟩ | ⟨-, h', -⟩ | ⟨t', h', -⟩
  · exact absurd h h'
  · exact e
  · rw [hi] at h'; simp at h'
  · have := h'.2.1; rw [hi] at this; simp at this

theorem checkAccess_of_forbidden {s : State} {addr : Word} {w : Width} (h : ¬ Permitted s addr w)
    (a : Access) (report : Word) : checkAccess a report addr w s = .raised (a.addressError report) := by
  rcases checkAccess_cases a report addr w s with ⟨-, e⟩ | ⟨h', -⟩ | ⟨h', -⟩ | ⟨t', h', -⟩
  · exact e
  · exact absurd h' h
  · exact absurd h' h
  · exact absurd h'.1 h

theorem checkAccess_of_unmapped {s : State} {addr : Word} {w : Width} (h : Permitted s addr w)
    (hi : srIsC s.sr = false) (hr : route s.ioClaims addr = none) (a : Access) (report : Word) :
    checkAccess a report addr w s = .raised .dbe := by
  rcases checkAccess_cases a report addr w s with ⟨h', -⟩ | ⟨-, h', -⟩ | ⟨-, -, -, e⟩ | ⟨t', h', -⟩
  · exact absurd h h'
  · rw [hi] at h'; simp at h'
  · exact e
  · have := h'.2.2; rw [hr] at this; simp at this

/-! ### The bus -/

/-- A bus read changes nothing, or is one recorded draw of a device. -/
theorem busRead_cases (t : Target) (w : Width) (s : State) :
    (busRead t w s).2 = s ∨
    ∃ e, (busRead t w s).2 = { s with events := s.events ++ [e], draws := s.draws + 1 } := by
  cases t with
  | storage loc => exact Or.inl rfl
  | rom loc => exact Or.inl rfl
  | interrupts k => exact Or.inl rfl
  | device d p => exact Or.inr ⟨_, rfl⟩

/-- Writes to the interrupt registers change those two registers only. -/
theorem writeInterruptBytes_eq (s : State) (n k : Nat) (v : Word) :
    ∃ a b, writeInterruptBytes s n k v = { s with iStat := a, iMask := b } := by
  induction n generalizing s k v with
  | zero => exact ⟨s.iStat, s.iMask, rfl⟩
  | succ n ih =>
    obtain ⟨a, b, h⟩ := ih (writeInterruptByte s k (v.setWidth 8)) (k + 1) (v >>> 8)
    simp only [writeInterruptBytes, h]
    unfold writeInterruptByte
    split <;> exact ⟨a, b, rfl⟩

/-- A bus write stores bytes, or changes nothing, or changes the interrupt registers, or is recorded. -/
theorem busWrite_cases (t : Target) (w : Width) (v : Word) (s : State) :
    (∃ loc, t = .storage loc ∧ busWrite t w v s = { s with mem := s.mem.writeBytes w.bytes loc v }) ∨
    busWrite t w v s = s ∨
    (∃ a b, busWrite t w v s = { s with iStat := a, iMask := b }) ∨
    (∃ e, busWrite t w v s = { s with events := s.events ++ [e] }) := by
  cases t with
  | storage loc => exact Or.inl ⟨loc, rfl, rfl⟩
  | rom loc => exact Or.inr (Or.inl rfl)
  | interrupts k => exact Or.inr (Or.inr (Or.inl (writeInterruptBytes_eq s _ k v)))
  | device d p => exact Or.inr (Or.inr (Or.inr ⟨_, rfl⟩))

/-! ### Loads, stores, coprocessor checks -/

/-- A load takes an exception, does nothing, or uses the value read. -/
theorem withLoad_cases (report addr : Word) (w : Width) (s : State) (use : Word → State → State) :
    (∃ e, withLoad report addr w s use = .next (enterException e s)) ∨
    withLoad report addr w s use = .next s ∨
    ∃ t, Reaches s addr w t ∧ withLoad report addr w s use = .next (use (busRead t w s).1 (busRead t w s).2) := by
  unfold withLoad raise
  rcases checkAccess_cases .load report addr w s with ⟨-, h⟩ | ⟨-, -, h⟩ | ⟨-, -, -, h⟩ | ⟨t, ht, h⟩ <;> rw [h]
  · exact Or.inl ⟨_, rfl⟩
  · exact Or.inr (Or.inl rfl)
  · exact Or.inl ⟨_, rfl⟩
  · exact Or.inr (Or.inr ⟨t, ht, rfl⟩)

theorem withLoad_of_reaches {s : State} {addr : Word} {w : Width} {t : Target} (h : Reaches s addr w t)
    (report : Word) (use : Word → State → State) :
    withLoad report addr w s use = .next (use (busRead t w s).1 (busRead t w s).2) := by
  unfold withLoad; rw [checkAccess_of_reaches h]

/-- A store takes an exception, does nothing, or writes the bus. -/
theorem storeWord_cases (addr : Word) (w : Width) (v : Word) (s : State) :
    (∃ e, storeWord addr w v s = .next (enterException e s)) ∨
    storeWord addr w v s = .next s ∨
    ∃ t, Reaches s addr w t ∧ storeWord addr w v s = .next (busWrite t w v s) := by
  unfold storeWord raise
  rcases checkAccess_cases .store addr addr w s with ⟨-, h⟩ | ⟨-, -, h⟩ | ⟨-, -, -, h⟩ | ⟨t, ht, h⟩ <;> rw [h]
  · exact Or.inl ⟨_, rfl⟩
  · exact Or.inr (Or.inl rfl)
  · exact Or.inl ⟨_, rfl⟩
  · exact Or.inr (Or.inr ⟨t, ht, rfl⟩)

theorem storeWord_of_reaches {s : State} {addr : Word} {w : Width} {t : Target} (h : Reaches s addr w t)
    (v : Word) : storeWord addr w v s = .next (busWrite t w v s) := by
  unfold storeWord; rw [checkAccess_of_reaches h]

/-- A partial-word store takes an exception or ends in the state its byte writes give. -/
theorem storePartial_cases (ea : Word) (bytes : List (Word × Byte)) (s : State) :
    (∃ e, storePartial ea bytes s = .next (enterException e s)) ∨
    ∃ t, storeBytes ea bytes s = .ok t ∧ storePartial ea bytes s = .next t := by
  unfold storePartial raise
  cases storeBytes ea bytes s with
  | error e => exact Or.inl ⟨e, rfl⟩
  | ok t => exact Or.inr ⟨t, rfl, rfl⟩

/-- What every byte write keeps, the whole list keeps. -/
theorem storeBytes_induct (P : State → Prop) (ea : Word)
    (hP : ∀ s addr (b : Byte) t, P s → Reaches s addr .byte t → P (busWrite t .byte (b.setWidth 32) s))
    (bytes : List (Word × Byte)) (s t : State) (hs : P s) (h : storeBytes ea bytes s = .ok t) : P t := by
  induction bytes generalizing s with
  | nil => simp only [storeBytes] at h; cases h; exact hs
  | cons c bytes ih =>
    obtain ⟨addr, b⟩ := c
    simp only [storeBytes] at h
    rcases checkAccess_cases .store (partialReport ea addr) addr .byte s with
      ⟨-, e⟩ | ⟨-, -, e⟩ | ⟨-, -, -, e⟩ | ⟨t', ht, e⟩ <;> rw [e] at h
    · simp at h
    · exact ih s hs h
    · simp at h
    · exact ih _ (hP s addr b t' hs ht) h

/-- A coprocessor instruction raises CpU or does what it does. -/
theorem withCop_cases (z : BitVec 2) (s : State) (action : Result) :
    (∃ ce, withCop z s action = .next (enterException (.cpU ce) s)) ∨ withCop z s action = action := by
  unfold withCop checkCop raise
  split_ifs <;> first | exact Or.inr rfl | exact Or.inl ⟨_, rfl⟩

/-! ### The step -/

/-- With no action waiting the environment changes nothing (log 7). -/
theorem envStep_nil {s : State} (h : s.env = []) : envStep s = s := by
  unfold envStep; rw [h]

/-- One action: IRQ bits set, RAM written, the action used up, and then the reset event if the action holds one. -/
theorem envStep_cons {s : State} {a : EnvAction} {rest : List EnvAction} (h : s.env = a :: rest) :
    envStep s = if a.reset then
        resetEvent { s with env := rest, iStat := s.iStat ||| a.irqs, mem := dmaWrites a.dma s.mem }
      else { s with env := rest, iStat := s.iStat ||| a.irqs, mem := dmaWrites a.dma s.mem } := by
  unfold envStep; rw [h]; rfl

/-- Bus masters leave every byte that none of their writes names. -/
theorem read_dmaWrites_outside (l : List (BitVec 21 × Byte)) (m : Memory) (loc : Nat)
    (h : ∀ c ∈ l, c.1.toNat ≠ loc) : (dmaWrites l m).read loc = m.read loc := by
  induction l generalizing m with
  | nil => rfl
  | cons c rest ih =>
    rw [dmaWrites, ih _ fun d hd => h d (.tail _ hd)]
    exact Memory.read_write_ne _ _ _ _ (h c (.head _)).symm

/-- `finishStep` keeps a next state a next state. -/
theorem finishStep_next (s : State) : finishStep (.next s) = .next (envStep (endTick s)) := rfl

end Sys2Proof.Machine
end

