-- ==== Sys2Proof/Laws/Bytes.lean ====
section
/-! SUPPORT. The bytes of a word, and what the bus composes from bytes. -/

namespace Sys2Proof.Machine

theorem getLsbD_byteOf (v : Word) (j i : Nat) :
    (byteOf v j).getLsbD i = (decide (i < 8) && v.getLsbD (8 * j + i)) := by
  rw [byteOf, BitVec.getLsbD_extractLsb']

/-- Four bytes are the whole word. -/
theorem eq_of_byteOf {v w : Word} (h : ∀ j, j < 4 → byteOf v j = byteOf w j) : v = w := by
  refine BitVec.eq_of_getLsbD_eq fun i hi => ?_
  have := congrArg (fun b => b.getLsbD (i % 8)) (h (i / 8) (by omega))
  simp only [getLsbD_byteOf, show i % 8 < 8 by omega, decide_true, Bool.true_and,
    show 8 * (i / 8) + i % 8 = i by omega] at this
  exact this

/-- A byte of a composed word: that location's byte within the width, zero above it (20_memory.md R163). -/
theorem byteOf_composeBytes (get : Nat → Byte) (n loc j : Nat) :
    byteOf (composeBytes get n loc) j = if j < n ∧ j < 4 then get (loc + j) else 0#8 := by
  induction n generalizing loc j with
  | zero =>
    refine BitVec.eq_of_getLsbD_eq fun i hi => ?_
    rw [getLsbD_byteOf, if_neg (by omega)]; simp [composeBytes]
  | succ n ih =>
    refine BitVec.eq_of_getLsbD_eq fun i hi => ?_
    rw [getLsbD_byteOf]
    simp only [composeBytes, BitVec.getLsbD_or, BitVec.getLsbD_setWidth, BitVec.getLsbD_shiftLeft, hi, decide_true,
      Bool.true_and]
    by_cases hj : j = 0
    · subst hj; simp [hi]; omega
    · have h8 : ¬ (8 * j + i < 8) := by omega
      have e := congrArg (fun b => b.getLsbD i) (ih (loc + 1) (j - 1))
      simp only [getLsbD_byteOf, hi, decide_true, Bool.true_and] at e
      rw [show 8 * (j - 1) + i = 8 * j + i - 8 by omega] at e
      rw [BitVec.getLsbD_of_ge (get loc) (8 * j + i) (by omega), e]
      by_cases h4 : j < 4
      · have : 8 * j + i < 32 := by omega
        simp only [this, h8, decide_true, decide_false, Bool.not_false, Bool.true_and, Bool.and_false, Bool.false_or]
        by_cases hn : j < n + 1
        · rw [if_pos (by omega), if_pos (by omega), show loc + 1 + (j - 1) = loc + j by omega]
        · rw [if_neg (by omega), if_neg (by omega)]
      · have : ¬ (8 * j + i < 32) := by omega
        simp [this, h4]

/-- The byte a store puts at the offset `j`, as `byteOf` names it. -/
theorem byteOf_eq_shift (v : Word) (j : Nat) : (v >>> (8 * j)).setWidth 8 = byteOf v j := by
  refine BitVec.eq_of_getLsbD_eq fun i hi => ?_
  rw [getLsbD_byteOf]; simp [hi]

end Sys2Proof.Machine
end

