-- ==== Sys2Proof/Laws/Encoding.lean ====
section
/-! SUPPORT. Reading a field back from a word of each format (30_encoding.md R251 to R254): first the bits of each
format, then each field the decoder reads. -/

namespace Sys2Proof

/-! ### rWord -/

section
variable (op fn : BitVec 6) (rs rt rd sh : BitVec 5)

/-- The bits of the format. -/
theorem getLsbD_rWord (i : Nat) : (rWord op rs rt rd sh fn).getLsbD i =
    if i < 6 then fn.getLsbD i else if i < 11 then sh.getLsbD (i - 6) else if i < 16 then rd.getLsbD (i - 11) else if i < 21 then rt.getLsbD (i - 16) else if i < 26 then rs.getLsbD (i - 21) else op.getLsbD (i - 26) := by
  simp only [rWord, BitVec.getLsbD_append]
  repeat' split
  all_goals first | rfl | omega

theorem opcodeOf_rWord : opcodeOf (rWord op rs rt rd sh fn) = op := by
  refine BitVec.eq_of_getLsbD_eq fun i hi => ?_
  rw [opcodeOf, BitVec.getLsbD_extractLsb', getLsbD_rWord]
  simp only [hi, decide_true, Bool.true_and]
  repeat' split
  all_goals first | omega | (congr 1; omega)

theorem rsOf_rWord : rsOf (rWord op rs rt rd sh fn) = rs := by
  refine BitVec.eq_of_getLsbD_eq fun i hi => ?_
  rw [rsOf, BitVec.getLsbD_extractLsb', getLsbD_rWord]
  simp only [hi, decide_true, Bool.true_and]
  repeat' split
  all_goals first | omega | (congr 1; omega)

theorem rtOf_rWord : rtOf (rWord op rs rt rd sh fn) = rt := by
  refine BitVec.eq_of_getLsbD_eq fun i hi => ?_
  rw [rtOf, BitVec.getLsbD_extractLsb', getLsbD_rWord]
  simp only [hi, decide_true, Bool.true_and]
  repeat' split
  all_goals first | omega | (congr 1; omega)

theorem rdOf_rWord : rdOf (rWord op rs rt rd sh fn) = rd := by
  refine BitVec.eq_of_getLsbD_eq fun i hi => ?_
  rw [rdOf, BitVec.getLsbD_extractLsb', getLsbD_rWord]
  simp only [hi, decide_true, Bool.true_and]
  repeat' split
  all_goals first | omega | (congr 1; omega)

theorem shamtOf_rWord : shamtOf (rWord op rs rt rd sh fn) = sh := by
  refine BitVec.eq_of_getLsbD_eq fun i hi => ?_
  rw [shamtOf, BitVec.getLsbD_extractLsb', getLsbD_rWord]
  simp only [hi, decide_true, Bool.true_and]
  repeat' split
  all_goals first | omega | (congr 1; omega)

theorem functOf_rWord : functOf (rWord op rs rt rd sh fn) = fn := by
  refine BitVec.eq_of_getLsbD_eq fun i hi => ?_
  rw [functOf, BitVec.getLsbD_extractLsb', getLsbD_rWord]
  simp only [hi, decide_true, Bool.true_and]
  repeat' split
  all_goals first | omega | (congr 1; omega)

theorem coOf_rWord : coOf (rWord op rs rt rd sh fn) = rs.getLsbD 4 := by
  rw [coOf, getLsbD_rWord]; rfl

end

/-! ### iWord -/

section
variable (op : BitVec 6) (rs rt : BitVec 5) (imm : BitVec 16)

/-- The bits of the format. -/
theorem getLsbD_iWord (i : Nat) : (iWord op rs rt imm).getLsbD i =
    if i < 16 then imm.getLsbD i else if i < 21 then rt.getLsbD (i - 16) else if i < 26 then rs.getLsbD (i - 21) else op.getLsbD (i - 26) := by
  simp only [iWord, BitVec.getLsbD_append]
  repeat' split
  all_goals first | rfl | omega

theorem opcodeOf_iWord : opcodeOf (iWord op rs rt imm) = op := by
  refine BitVec.eq_of_getLsbD_eq fun i hi => ?_
  rw [opcodeOf, BitVec.getLsbD_extractLsb', getLsbD_iWord]
  simp only [hi, decide_true, Bool.true_and]
  repeat' split
  all_goals first | omega | (congr 1; omega)

theorem rsOf_iWord : rsOf (iWord op rs rt imm) = rs := by
  refine BitVec.eq_of_getLsbD_eq fun i hi => ?_
  rw [rsOf, BitVec.getLsbD_extractLsb', getLsbD_iWord]
  simp only [hi, decide_true, Bool.true_and]
  repeat' split
  all_goals first | omega | (congr 1; omega)

theorem rtOf_iWord : rtOf (iWord op rs rt imm) = rt := by
  refine BitVec.eq_of_getLsbD_eq fun i hi => ?_
  rw [rtOf, BitVec.getLsbD_extractLsb', getLsbD_iWord]
  simp only [hi, decide_true, Bool.true_and]
  repeat' split
  all_goals first | omega | (congr 1; omega)

theorem imm16Of_iWord : imm16Of (iWord op rs rt imm) = imm := by
  refine BitVec.eq_of_getLsbD_eq fun i hi => ?_
  rw [imm16Of, BitVec.getLsbD_extractLsb', getLsbD_iWord]
  simp only [hi, decide_true, Bool.true_and]
  repeat' split
  all_goals first | omega | (congr 1; omega)

end

/-! ### jWord -/

section
variable (op : BitVec 6) (t : BitVec 26)

/-- The bits of the format. -/
theorem getLsbD_jWord (i : Nat) : (jWord op t).getLsbD i =
    if i < 26 then t.getLsbD i else op.getLsbD (i - 26) := by
  simp only [jWord, BitVec.getLsbD_append]

theorem opcodeOf_jWord : opcodeOf (jWord op t) = op := by
  refine BitVec.eq_of_getLsbD_eq fun i hi => ?_
  rw [opcodeOf, BitVec.getLsbD_extractLsb', getLsbD_jWord]
  simp only [hi, decide_true, Bool.true_and]
  repeat' split
  all_goals first | omega | (congr 1; omega)

theorem target26Of_jWord : target26Of (jWord op t) = t := by
  refine BitVec.eq_of_getLsbD_eq fun i hi => ?_
  rw [target26Of, BitVec.getLsbD_extractLsb', getLsbD_jWord]
  simp only [hi, decide_true, Bool.true_and]
  repeat' split
  all_goals first | omega | (congr 1; omega)

end

/-! ### codeWord -/

section
variable (c : BitVec 20) (fn : BitVec 6)

/-- The bits of the format. -/
theorem getLsbD_codeWord (i : Nat) : (codeWord c fn).getLsbD i =
    if i < 6 then fn.getLsbD i else if i < 26 then c.getLsbD (i - 6) else (0x00#6).getLsbD (i - 26) := by
  simp only [codeWord, BitVec.getLsbD_append]
  repeat' split
  all_goals first | rfl | omega

theorem opcodeOf_codeWord : opcodeOf (codeWord c fn) = 0x00#6 := by
  refine BitVec.eq_of_getLsbD_eq fun i hi => ?_
  rw [opcodeOf, BitVec.getLsbD_extractLsb', getLsbD_codeWord]
  simp only [hi, decide_true, Bool.true_and]
  repeat' split
  all_goals first | omega | (congr 1; omega)

theorem functOf_codeWord : functOf (codeWord c fn) = fn := by
  refine BitVec.eq_of_getLsbD_eq fun i hi => ?_
  rw [functOf, BitVec.getLsbD_extractLsb', getLsbD_codeWord]
  simp only [hi, decide_true, Bool.true_and]
  repeat' split
  all_goals first | omega | (congr 1; omega)

theorem code20Of_codeWord : code20Of (codeWord c fn) = c := by
  refine BitVec.eq_of_getLsbD_eq fun i hi => ?_
  rw [code20Of, BitVec.getLsbD_extractLsb', getLsbD_codeWord]
  simp only [hi, decide_true, Bool.true_and]
  repeat' split
  all_goals first | omega | (congr 1; omega)

end

/-! ### copWord -/

section
variable (op : BitVec 6) (c : BitVec 25)

/-- The bits of the format. -/
theorem getLsbD_copWord (i : Nat) : (copWord op c).getLsbD i =
    if i < 25 then c.getLsbD i else if i < 26 then (1#1).getLsbD (i - 25) else op.getLsbD (i - 26) := by
  simp only [copWord, BitVec.getLsbD_append]
  repeat' split
  all_goals first | rfl | omega

theorem opcodeOf_copWord : opcodeOf (copWord op c) = op := by
  refine BitVec.eq_of_getLsbD_eq fun i hi => ?_
  rw [opcodeOf, BitVec.getLsbD_extractLsb', getLsbD_copWord]
  simp only [hi, decide_true, Bool.true_and]
  repeat' split
  all_goals first | omega | (congr 1; omega)

theorem functOf_copWord : functOf (copWord op c) = c.extractLsb' 0 6 := by
  refine BitVec.eq_of_getLsbD_eq fun i hi => ?_
  rw [functOf, BitVec.getLsbD_extractLsb', getLsbD_copWord, BitVec.getLsbD_extractLsb', if_pos (by omega)]

theorem imm25Of_copWord : imm25Of (copWord op c) = c := by
  refine BitVec.eq_of_getLsbD_eq fun i hi => ?_
  rw [imm25Of, BitVec.getLsbD_extractLsb', getLsbD_copWord]
  simp only [hi, decide_true, Bool.true_and]
  repeat' split
  all_goals first | omega | (congr 1; omega)

theorem coOf_copWord : coOf (copWord op c) = true := by
  rw [coOf, getLsbD_copWord]; rfl

end

end Sys2Proof
end

