-- ==== Sys2Proof/Laws/Exec.lean ====
section
/-! SUPPORT. What an instruction can do to the state, said once (`Change`, `exec_change`), what a step can do
(`step_cases`), and where an address routes; claims about the whole machine go through these. -/

namespace Sys2Proof.Machine

/-! ### Single changes as claims speak of them -/

theorem onlyGprs_writeReg (s : State) (r : RegIdx) (v : Word) : OnlyGprs (GprWritten r v) s (s.writeReg r v) :=
  ⟨gprWritten_writeReg s r v, ⟨rfl, rfl⟩, ⟨rfl, rfl, rfl, rfl, rfl, rfl, rfl⟩, ⟨rfl, rfl⟩, fun _ => rfl, ⟨rfl, rfl⟩,
    fun _ => rfl, ⟨rfl, rfl, rfl, rfl⟩⟩

theorem onlyGprs_writeDelayed (s : State) (r : RegIdx) (v : Word) : OnlyGprs (GprLoaded r v) s (s.writeDelayed r v) :=
  ⟨gprLoaded_writeDelayed s r v, ⟨rfl, rfl⟩, ⟨rfl, rfl, rfl, rfl, rfl, rfl, rfl⟩, ⟨rfl, rfl⟩, fun _ => rfl, ⟨rfl, rfl⟩,
    fun _ => rfl, ⟨rfl, rfl, rfl, rfl⟩⟩

theorem onlyHiLo_writeHiLo (s : State) (h l : Word) : OnlyHiLo s (s.writeHiLo h l) :=
  ⟨⟨rfl, rfl, rfl⟩, ⟨rfl, rfl, rfl, rfl, rfl, rfl, rfl⟩, ⟨rfl, rfl⟩, fun _ => rfl, ⟨rfl, rfl⟩, fun _ => rfl,
    ⟨rfl, rfl, rfl, rfl⟩⟩

theorem onlyTransfer_transfer (s : State) (v : Word) : OnlyTransfer SameGprs s (transfer v s) :=
  ⟨⟨rfl, rfl, rfl⟩, ⟨rfl, rfl⟩, ⟨rfl, rfl, rfl, rfl, rfl, rfl, rfl⟩, fun _ => rfl, ⟨rfl, rfl⟩, fun _ => rfl,
    ⟨rfl, rfl, rfl, rfl⟩⟩

theorem onlyTransfer_branchIf (s : State) (c : Bool) (imm16 : BitVec 16) :
    OnlyTransfer SameGprs s (branchIf c imm16 s) := by
  unfold branchIf; split
  · exact onlyTransfer_transfer s _
  · exact ⟨⟨rfl, rfl, rfl⟩, ⟨rfl, rfl⟩, ⟨rfl, rfl, rfl, rfl, rfl, rfl, rfl⟩, fun _ => rfl, ⟨rfl, rfl⟩, fun _ => rfl,
      ⟨rfl, rfl, rfl, rfl⟩⟩

theorem onlyTransfer_linked (s : State) (r : RegIdx) (v : Word) :
    OnlyTransfer (GprWritten r s.nextPc) s (transfer v (link r s)) :=
  ⟨gprWritten_writeReg s r _, ⟨rfl, rfl⟩, ⟨rfl, rfl, rfl, rfl, rfl, rfl, rfl⟩, fun _ => rfl, ⟨rfl, rfl⟩, fun _ => rfl,
    ⟨rfl, rfl, rfl, rfl⟩⟩

theorem onlyTransfer_linkedBranch (s : State) (r : RegIdx) (c : Bool) (imm16 : BitVec 16) :
    OnlyTransfer (GprWritten r s.nextPc) s (branchIf c imm16 (link r s)) := by
  unfold branchIf; split
  · exact onlyTransfer_linked s r _
  · exact ⟨gprWritten_writeReg s r _, ⟨rfl, rfl⟩, ⟨rfl, rfl, rfl, rfl, rfl, rfl, rfl⟩, fun _ => rfl, ⟨rfl, rfl⟩,
      fun _ => rfl, ⟨rfl, rfl, rfl, rfl⟩⟩

theorem onlyCp0_writeCp0 (s : State) (n : RegIdx) (v : Word) :
    OnlyCp0 (fun s t => t.cp0Reg n = v ∧ Cp0SameBut (fun m => m = n) s t) s (s.writeCp0 n v) :=
  ⟨⟨by rw [cp0Reg_writeCp0, if_pos rfl], fun m hm => by rw [cp0Reg_writeCp0, if_neg hm]⟩, ⟨rfl, rfl, rfl⟩, ⟨rfl, rfl⟩,
    ⟨rfl, rfl, rfl, rfl, rfl, rfl, rfl⟩, ⟨rfl, rfl⟩, ⟨rfl, rfl⟩, fun _ => rfl, ⟨rfl, rfl, rfl, rfl⟩⟩

theorem branchOutcome_branchIf (s : State) (c : Bool) (p : Prop) [Decidable p] (h : c = true ↔ p) (imm16 : BitVec 16) :
    BranchOutcome p imm16 s (branchIf c imm16 s) := by
  unfold BranchOutcome branchIf
  by_cases hp : p
  · rw [if_pos hp, if_pos (h.2 hp)]; exact ⟨rfl, rfl⟩
  · rw [if_neg hp, if_neg (fun e => hp (h.1 e))]; exact ⟨rfl, rfl⟩

theorem branchOutcome_linkedBranch (s : State) (r : RegIdx) (c : Bool) (p : Prop) [Decidable p] (h : c = true ↔ p)
    (imm16 : BitVec 16) : BranchOutcome p imm16 s (branchIf c imm16 (link r s)) := by
  unfold BranchOutcome branchIf
  by_cases hp : p
  · rw [if_pos hp, if_pos (h.2 hp)]; exact ⟨rfl, rfl⟩
  · rw [if_neg hp, if_neg (fun e => hp (h.1 e))]; exact ⟨rfl, rfl⟩

/-! ### Where an address routes -/

theorem segmentOf_eq (addr : Word) : segmentOf addr =
    if addr.toNat < 0x80000000 then .kuseg else if addr.toNat < 0xA0000000 then .kseg0
    else if addr.toNat < 0xC0000000 then .kseg1 else .kseg2 := by
  unfold segmentOf
  have h := addr.isLt
  have e1 : (addr.toNat / 2 ^ 29 < 4) ↔ addr.toNat < 0x80000000 := by omega
  have e2 : (addr.toNat / 2 ^ 29 = 4) ↔ (0x80000000 ≤ addr.toNat ∧ addr.toNat < 0xA0000000) := by omega
  have e3 : (addr.toNat / 2 ^ 29 = 5) ↔ (0xA0000000 ≤ addr.toNat ∧ addr.toNat < 0xC0000000) := by omega
  simp only [e1, e2, e3]
  split_ifs <;> first | rfl | omega

theorem routePhysical_storage {claims : List IoClaim} {p loc : Nat} (h : routePhysical claims p = some (.storage loc)) :
    loc % 4 = p % 4 ∧ (loc < 0x200000 ∨ (0x1F800000 ≤ loc ∧ loc ≤ 0x1F8003FF)) := by
  unfold routePhysical routeIo at h
  split_ifs at h with h1 h2 h3 h4 h5 h6
  · have := Option.some.inj h; injection this; omega
  · have := Option.some.inj h; injection this
  · have := Option.some.inj h; injection this; omega
  · have := Option.some.inj h; injection this
  · split at h
    · have := Option.some.inj h; injection this
    · cases h
  · have := Option.some.inj h; injection this

/-- A stored byte is in RAM, in the scratchpad, or in the cache-control window, and only a kernel address reaches the
last; its location is aligned as the address is. -/
theorem route_storage {claims : List IoClaim} {addr : Word} {loc : Nat} (h : route claims addr = some (.storage loc)) :
    loc % 4 = addr.toNat % 4 ∧
      (loc < 0x200000 ∨ (0x1F800000 ≤ loc ∧ loc ≤ 0x1F8003FF) ∨
        (0xFFFE0000 ≤ loc ∧ loc ≤ 0xFFFE01FF ∧ 0x80000000 ≤ addr.toNat)) := by
  unfold route at h
  rw [segmentOf_eq] at h
  by_cases h1 : addr.toNat < 0x80000000
  · rw [if_pos h1] at h; have := routePhysical_storage h; omega
  rw [if_neg h1] at h
  by_cases h2 : addr.toNat < 0xA0000000
  · rw [if_pos h2] at h; have := routePhysical_storage h; omega
  rw [if_neg h2] at h
  by_cases h3 : addr.toNat < 0xC0000000
  · rw [if_pos h3] at h; have := routePhysical_storage h; omega
  rw [if_neg h3] at h
  replace h : (if 0xFFFE0000 ≤ addr.toNat ∧ addr.toNat ≤ 0xFFFE01FF then some (Target.storage addr.toNat)
      else none) = some (.storage loc) := h
  split_ifs at h
  have := Option.some.inj h; injection this; omega

/-! ### What an instruction can do -/

/-- Every way an instruction can leave the state. -/
inductive Change (i : Instr) (s : State) : State → Prop
  /-- Nothing: an isolated access, a branch not taken, or a coprocessor-2 operation beside `events` and `draws`. -/
  | agents (e : List ExternalEvent) (d : Nat) : Change i s { s with events := e, draws := d }
  /-- An exception. -/
  | entered (e : Exc) : Change i s (enterException e s)
  /-- A register, after at most a coprocessor-2 read. -/
  | wroteReg (e : List ExternalEvent) (d : Nat) (r : RegIdx) (v : Word) :
      Change i s (State.writeReg { s with events := e, draws := d } r v)
  | wroteHiLo (h l : Word) : Change i s (s.writeHiLo h l)
  /-- A taken transfer, with a link or without. -/
  | transferred (v : Word) : Change i s (transfer v s)
  | linked (r : RegIdx) (v : Word) : Change i s (transfer v (link r s))
  /-- A load, whose bus read leaves `events` and `draws`. -/
  | loaded (e : List ExternalEvent) (d : Nat) (r : RegIdx) (v : Word) :
      Change i s (State.writeDelayed { s with events := e, draws := d } r v)
  /-- A bus write at a permitted and routed address, after at most a coprocessor-2 read. -/
  | stored (e : List ExternalEvent) (d : Nat) (addr : Word) (w : Width) (tgt : Target) (v : Word)
      (h : Reaches s addr w tgt) : Change i s (busWrite tgt w v { s with events := e, draws := d })
  /-- The byte stores of SWL and SWR. -/
  | storedBytes (ea : Word) (bytes : List (Word × Byte)) (t : State) (h : storeBytes ea bytes s = .ok t) : Change i s t
  /-- A CP0 register, by an instruction that coprocessor 0 may run. -/
  | wroteCp0 (e : List ExternalEvent) (d : Nat) (n : RegIdx) (v : Word) (hu : Cop0Usable s)
      (h : (i = .rfe ∧ n = 12#5) ∨ (∃ rt, i = .mtc0 rt n) ∨ (∃ rt, i = .ctc0 rt n) ∨ ∃ rs imm16, i = .lwc0 n rs imm16) :
      Change i s (State.writeCp0 { s with events := e, draws := d } n v)

theorem change_writeReg (i : Instr) (s : State) (r : RegIdx) (v : Word) : Change i s (s.writeReg r v) :=
  .wroteReg s.events s.draws r v

theorem change_same (i : Instr) (s : State) : Change i s s := .agents s.events s.draws

theorem change_branchIf (i : Instr) (s : State) (c : Bool) (imm16 : BitVec 16) :
    Change i s (branchIf c imm16 s) := by
  unfold branchIf; split
  · exact .transferred _
  · exact change_same i s

theorem change_linkedBranch (i : Instr) (s : State) (r : RegIdx) (c : Bool) (imm16 : BitVec 16) :
    Change i s (branchIf c imm16 (link r s)) := by
  unfold branchIf; split
  · exact .linked r _
  · exact change_writeReg i s r _

theorem change_writeOrOverflow (i : Instr) (s t : State) (o : Bool) (r : RegIdx) (v : Word)
    (h : writeOrOverflow o r v s = .next t) : Change i s t := by
  unfold writeOrOverflow at h
  split at h <;> cases h
  · exact .entered _
  · exact change_writeReg i s r v

/-- The state after a bus read, in one form. -/
theorem busRead_eq (tgt : Target) (w : Width) (s : State) :
    ∃ e d, (busRead tgt w s).2 = { s with events := e, draws := d } := by
  rcases busRead_cases tgt w s with h | ⟨e, h⟩
  · exact ⟨s.events, s.draws, h⟩
  · exact ⟨_, _, h⟩

theorem change_loadInto (i : Instr) (s t : State) (rt : RegIdx) (addr : Word) (w : Width) (extend : Word → Word)
    (h : loadInto rt addr w extend s = .next t) : Change i s t := by
  unfold loadInto at h
  rcases withLoad_cases addr addr w s (fun v t => t.writeDelayed rt (extend v)) with ⟨e, h'⟩ | h' | ⟨tgt, -, h'⟩ <;>
    rw [h'] at h <;> cases h
  · exact .entered e
  · exact change_same i s
  · obtain ⟨e, d, hb⟩ := busRead_eq tgt w s
    rw [hb]; exact .loaded e d rt _

theorem change_loadMerge (i : Instr) (s t : State) (rt : RegIdx) (addr : Word) (merge : Nat → Word → Word → Word)
    (h : loadMerge rt addr merge s = .next t) : Change i s t := by
  unfold loadMerge at h
  rcases withLoad_cases (partialReport addr (alignedWord addr)) (alignedWord addr) .word s
    (fun v t => t.writeDelayed rt (merge (byteOffset addr) (s.xf rt) v)) with ⟨e, h'⟩ | h' | ⟨tgt, -, h'⟩ <;>
    rw [h'] at h <;> cases h
  · exact .entered e
  · exact change_same i s
  · obtain ⟨e, d, hb⟩ := busRead_eq tgt .word s
    rw [hb]; exact .loaded e d rt _

theorem change_storeWord (i : Instr) (s t : State) (addr : Word) (w : Width) (v : Word)
    (h : storeWord addr w v s = .next t) : Change i s t := by
  rcases storeWord_cases addr w v s with ⟨e, h'⟩ | h' | ⟨tgt, hr, h'⟩ <;> rw [h'] at h <;> cases h
  · exact .entered e
  · exact change_same i s
  · exact .stored s.events s.draws addr w tgt v hr

theorem change_storePartial (i : Instr) (s t : State) (ea : Word) (bytes : List (Word × Byte))
    (h : storePartial ea bytes s = .next t) : Change i s t := by
  rcases storePartial_cases ea bytes s with ⟨e, h'⟩ | ⟨t', h1, h'⟩ <;> rw [h'] at h <;> cases h
  · exact .entered e
  · exact .storedBytes ea bytes t h1

theorem change_withCop (i : Instr) (s t : State) (z : BitVec 2) (action : Result)
    (ha : checkCop z s = none → action = .next t → Change i s t) (h : withCop z s action = .next t) :
    Change i s t := by
  unfold withCop raise at h
  cases hc : checkCop z s with
  | some e => rw [hc] at h; cases h; exact .entered e
  | none => rw [hc] at h; exact ha hc h

theorem checkCop_zero (s : State) : checkCop 0#2 s = none ↔ Cop0Usable s := by
  unfold checkCop State.userMode
  rw [if_pos rfl]
  cases h1 : srKUc s.sr <;> cases h2 : srCu0 s.sr <;> simp [Cop0Usable, h1, h2]

theorem checkCop_two (s : State) : checkCop 2#2 s = none ↔ srCu2 s.sr = true := by
  unfold checkCop
  rw [if_neg (by decide), if_pos rfl]
  cases srCu2 s.sr <;> simp

theorem withCop_zero_of_usable {s : State} (h : Cop0Usable s) (action : Result) : withCop 0#2 s action = action := by
  unfold withCop; rw [(checkCop_zero s).2 h]

theorem withCop_two_of_usable {s : State} (h : srCu2 s.sr = true) (action : Result) :
    withCop 2#2 s action = action := by
  unfold withCop; rw [(checkCop_two s).2 h]

theorem change_lwc0 (s t : State) (rt rs : RegIdx) (imm16 : BitVec 16) (h : execLwc0 rt rs imm16 s = .next t) :
    Change (.lwc0 rt rs imm16) s t := by
  refine change_withCop _ s t _ _ (fun hc h => ?_) h
  rcases withLoad_cases (s.ea rs imm16) (s.ea rs imm16) .word s (fun v t => t.writeCp0 rt v) with
    ⟨e, h'⟩ | h' | ⟨tgt, -, h'⟩ <;> rw [h'] at h <;> cases h
  · exact .entered e
  · exact change_same _ s
  · obtain ⟨e, d, hb⟩ := busRead_eq tgt .word s
    rw [hb]; exact .wroteCp0 e d rt _ ((checkCop_zero s).1 hc) (.inr (.inr (.inr ⟨rs, imm16, rfl⟩)))

theorem change_lwc2 (s t : State) (rt rs : RegIdx) (imm16 : BitVec 16) (h : execLwc2 rt rs imm16 s = .next t) :
    Change (.lwc2 rt rs imm16) s t := by
  refine change_withCop _ s t _ _ (fun hc h => ?_) h
  rcases withLoad_cases (s.ea rs imm16) (s.ea rs imm16) .word s (fun v t => cop2WriteData rt v t) with
    ⟨e, h'⟩ | h' | ⟨tgt, -, h'⟩ <;> rw [h'] at h <;> cases h
  · exact .entered e
  · exact change_same _ s
  · obtain ⟨e, d, hb⟩ := busRead_eq tgt .word s
    rw [hb]; exact .agents _ d

theorem change_swc2 (s t : State) (rt rs : RegIdx) (imm16 : BitVec 16) (h : execSwc2 rt rs imm16 s = .next t) :
    Change (.swc2 rt rs imm16) s t := by
  refine change_withCop _ s t _ _ (fun hc h => ?_) h
  unfold storeCop2 raise at h
  rcases checkAccess_cases .store (s.ea rs imm16) (s.ea rs imm16) .word s with
    ⟨-, e⟩ | ⟨-, -, e⟩ | ⟨-, -, -, e⟩ | ⟨tgt, hr, e⟩ <;> rw [e] at h <;> cases h
  · exact .entered _
  · exact .agents _ _
  · exact .entered _
  · exact .stored _ _ (s.ea rs imm16) .word tgt _ hr

/-- What every instruction can do. -/
theorem exec_change (i : Instr) (s t : State) (h : exec i s = .next t) : Change i s t := by
  cases i with
  | lwc0 rt rs imm16 => exact change_lwc0 s t rt rs imm16 h
  | lwc2 rt rs imm16 => exact change_lwc2 s t rt rs imm16 h
  | swc2 rt rs imm16 => exact change_swc2 s t rt rs imm16 h
  | rfe =>
    exact change_withCop _ s t _ _ (fun hc h => by
      cases h; exact .wroteCp0 s.events s.draws 12#5 _ ((checkCop_zero s).1 hc) (.inl ⟨rfl, rfl⟩)) h
  | mtc0 rt rd =>
    exact change_withCop _ s t _ _ (fun hc h => by
      cases h; exact .wroteCp0 s.events s.draws rd _ ((checkCop_zero s).1 hc) (.inr (.inl ⟨rt, rfl⟩))) h
  | ctc0 rt rd =>
    exact change_withCop _ s t _ _ (fun hc h => by
      cases h; exact .wroteCp0 s.events s.draws rd _ ((checkCop_zero s).1 hc) (.inr (.inr (.inl ⟨rt, rfl⟩)))) h
  | mfc2 rt rd => exact change_withCop _ s t _ _ (fun _ h => by cases h; exact .wroteReg _ _ rt _) h
  | cfc2 rt rd => exact change_withCop _ s t _ _ (fun _ h => by cases h; exact .wroteReg _ _ rt _) h
  | mtc2 rt rd => exact change_withCop _ s t _ _ (fun _ h => by cases h; exact .agents _ _) h
  | ctc2 rt rd => exact change_withCop _ s t _ _ (fun _ h => by cases h; exact .agents _ _) h
  | cop2 imm25 => exact change_withCop _ s t _ _ (fun _ h => by cases h; exact .agents _ _) h
  | mfc0 rt rd => exact change_withCop _ s t _ _ (fun _ h => by cases h; exact change_writeReg _ s rt _) h
  | cfc0 rt rd => exact change_withCop _ s t _ _ (fun _ h => by cases h; exact change_writeReg _ s rt _) h
  | swc0 rt rs imm16 => exact change_withCop _ s t _ _ (fun _ h => change_storeWord _ s t _ _ _ h) h
  | _ =>
    first
    | (cases h; exact change_writeReg _ s _ _)
    | (cases h; exact .wroteHiLo _ _)
    | (cases h; exact .entered _)
    | (cases h; exact change_branchIf _ s _ _)
    | (cases h; exact change_linkedBranch _ s _ _ _)
    | (cases h; exact .transferred _)
    | (cases h; exact .linked _ _)
    | exact change_writeOrOverflow _ s t _ _ _ h
    | exact change_loadInto _ s t _ _ _ _ h
    | exact change_loadMerge _ s t _ _ _ h
    | exact change_storeWord _ s t _ _ _ h
    | exact change_storePartial _ s t _ _ h

/-! ### What a step can do -/

/-- The fetch changes nothing but what a device read leaves. -/
theorem fetch_eq (addr : Word) (s : State) : ∃ e d, (fetch addr s).2.2 = { s with events := e, draws := d } := by
  unfold fetch
  split
  · exact ⟨s.events, s.draws, rfl⟩
  split
  · exact ⟨s.events, s.draws, rfl⟩
  split
  · exact ⟨s.events, s.draws, rfl⟩
  · exact busRead_eq _ _ s

/-- A reserved word takes an exception. -/
theorem execReserved_cases (why : Reserved) (s : State) : ∃ e, execReserved why s = .next (enterException e s) := by
  cases why <;> first
    | exact ⟨_, rfl⟩
    | (simp only [execReserved]
       rcases withCop_cases 0#2 s (raise .ri s) with ⟨e, h⟩ | h <;> exact ⟨_, h⟩)
    | (simp only [execReserved]
       rcases withCop_cases 2#2 s (raise .ri s) with ⟨e, h⟩ | h <;> exact ⟨_, h⟩)

/-- The selected part of the tick takes an exception or runs the decoded instruction. -/
theorem selectAndExecute_cases (s : State) :
    (∃ e, selectAndExecute s = .next (enterException e s)) ∨
    ∃ i, decode s.currentInstruction = .instr i ∧ selectAndExecute s = exec i s := by
  unfold selectAndExecute raise
  split
  · exact .inl ⟨_, rfl⟩
  · unfold execute
    split
    · rename_i i hi; exact .inr ⟨i, hi, rfl⟩
    · exact .inl (execReserved_cases _ s)

/-- The tick executes the word that stood in the latch (R631). -/
theorem beginTick_currentInstruction (s : State) : (beginTick s).currentInstruction = s.nextInstruction := by
  obtain ⟨e, d, hf⟩ := fetch_eq (promote s).nextPc (promote s)
  simp only [beginTick, sampleInterrupt, fetchNext, hf]; rfl

/-- The fetch fault that stood in the latch goes with the word (R631). -/
theorem beginTick_currentFault (s : State) : (beginTick s).currentFault = s.nextInstructionFault := by
  obtain ⟨e, d, hf⟩ := fetch_eq (promote s).nextPc (promote s)
  simp only [beginTick, sampleInterrupt, fetchNext, hf]; rfl

/-- A step ends an exception entry or an instruction. -/
theorem step_cases (s t : State) (h : step s = .next t) :
    (∃ e, t = envStep (endTick (enterException e (beginTick s)))) ∨
    ∃ i r, decode s.nextInstruction = .instr i ∧ exec i (beginTick s) = .next r ∧ t = envStep (endTick r) := by
  unfold step at h
  have hc := beginTick_currentInstruction s
  rcases selectAndExecute_cases (beginTick s) with ⟨e, he⟩ | ⟨i, hi, he⟩
  · rw [he] at h; cases h; exact .inl ⟨e, rfl⟩
  · rw [he] at h
    cases hx : exec i (beginTick s) with
    | next r => rw [hx] at h; cases h; exact .inr ⟨i, r, hc ▸ hi, hx, rfl⟩
    | fault f => cases f
    | refused f => rw [hx] at h; cases h

end Sys2Proof.Machine
end

