-- ==== Sys2Proof/Laws/PerInstr.lean ====
section
/-! SUPPORT. Laws made per instruction. RowPattern: the encoder's word of an instruction shows its row of
spec/opcode_table.json, `match` under `mask`, both copied here from the table and not from the encoder, and has no
bit outside those the instruction uses. -/

namespace Sys2Proof.Laws

open Sys2Proof

/-- The `mask` of the instruction's row of spec/opcode_table.json. -/
def rowMask : Instr → Word
  | .add _ _ _ => 0xFC00003F#32
  | .addu _ _ _ => 0xFC00003F#32
  | .sub _ _ _ => 0xFC00003F#32
  | .subu _ _ _ => 0xFC00003F#32
  | .and _ _ _ => 0xFC00003F#32
  | .or _ _ _ => 0xFC00003F#32
  | .xor _ _ _ => 0xFC00003F#32
  | .nor _ _ _ => 0xFC00003F#32
  | .slt _ _ _ => 0xFC00003F#32
  | .sltu _ _ _ => 0xFC00003F#32
  | .sll _ _ _ => 0xFC00003F#32
  | .srl _ _ _ => 0xFC00003F#32
  | .sra _ _ _ => 0xFC00003F#32
  | .sllv _ _ _ => 0xFC00003F#32
  | .srlv _ _ _ => 0xFC00003F#32
  | .srav _ _ _ => 0xFC00003F#32
  | .addi _ _ _ => 0xFC000000#32
  | .addiu _ _ _ => 0xFC000000#32
  | .slti _ _ _ => 0xFC000000#32
  | .sltiu _ _ _ => 0xFC000000#32
  | .andi _ _ _ => 0xFC000000#32
  | .ori _ _ _ => 0xFC000000#32
  | .xori _ _ _ => 0xFC000000#32
  | .lui _ _ => 0xFC000000#32
  | .mult _ _ => 0xFC00003F#32
  | .multu _ _ => 0xFC00003F#32
  | .div _ _ => 0xFC00003F#32
  | .divu _ _ => 0xFC00003F#32
  | .mfhi _ => 0xFC00003F#32
  | .mthi _ => 0xFC00003F#32
  | .mflo _ => 0xFC00003F#32
  | .mtlo _ => 0xFC00003F#32
  | .j _ => 0xFC000000#32
  | .jal _ => 0xFC000000#32
  | .jr _ => 0xFC00003F#32
  | .jalr _ _ => 0xFC00003F#32
  | .beq _ _ _ => 0xFC000000#32
  | .bne _ _ _ => 0xFC000000#32
  | .blez _ _ => 0xFC000000#32
  | .bgtz _ _ => 0xFC000000#32
  | .bltz _ _ => 0xFC1F0000#32
  | .bgez _ _ => 0xFC1F0000#32
  | .bltzal _ _ => 0xFC1F0000#32
  | .bgezal _ _ => 0xFC1F0000#32
  | .lb _ _ _ => 0xFC000000#32
  | .lbu _ _ _ => 0xFC000000#32
  | .lh _ _ _ => 0xFC000000#32
  | .lhu _ _ _ => 0xFC000000#32
  | .lw _ _ _ => 0xFC000000#32
  | .lwl _ _ _ => 0xFC000000#32
  | .lwr _ _ _ => 0xFC000000#32
  | .sb _ _ _ => 0xFC000000#32
  | .sh _ _ _ => 0xFC000000#32
  | .sw _ _ _ => 0xFC000000#32
  | .swl _ _ _ => 0xFC000000#32
  | .swr _ _ _ => 0xFC000000#32
  | .syscall _ => 0xFC00003F#32
  | .breakpoint _ => 0xFC00003F#32
  | .mfc0 _ _ => 0xFFE00000#32
  | .cfc0 _ _ => 0xFFE00000#32
  | .mtc0 _ _ => 0xFFE00000#32
  | .ctc0 _ _ => 0xFFE00000#32
  | .rfe => 0xFE00003F#32
  | .lwc0 _ _ _ => 0xFC000000#32
  | .swc0 _ _ _ => 0xFC000000#32
  | .mfc2 _ _ => 0xFFE00000#32
  | .cfc2 _ _ => 0xFFE00000#32
  | .mtc2 _ _ => 0xFFE00000#32
  | .ctc2 _ _ => 0xFFE00000#32
  | .cop2 _ => 0xFE000000#32
  | .lwc2 _ _ _ => 0xFC000000#32
  | .swc2 _ _ _ => 0xFC000000#32
  | .cop1 => 0xFC000000#32
  | .cop3 => 0xFC000000#32
  | .lwc1 => 0xFC000000#32
  | .lwc3 => 0xFC000000#32
  | .swc1 => 0xFC000000#32
  | .swc3 => 0xFC000000#32

/-- The `match` of the instruction's row of spec/opcode_table.json. -/
def rowMatch : Instr → Word
  | .add _ _ _ => 0x00000020#32
  | .addu _ _ _ => 0x00000021#32
  | .sub _ _ _ => 0x00000022#32
  | .subu _ _ _ => 0x00000023#32
  | .and _ _ _ => 0x00000024#32
  | .or _ _ _ => 0x00000025#32
  | .xor _ _ _ => 0x00000026#32
  | .nor _ _ _ => 0x00000027#32
  | .slt _ _ _ => 0x0000002A#32
  | .sltu _ _ _ => 0x0000002B#32
  | .sll _ _ _ => 0x00000000#32
  | .srl _ _ _ => 0x00000002#32
  | .sra _ _ _ => 0x00000003#32
  | .sllv _ _ _ => 0x00000004#32
  | .srlv _ _ _ => 0x00000006#32
  | .srav _ _ _ => 0x00000007#32
  | .addi _ _ _ => 0x20000000#32
  | .addiu _ _ _ => 0x24000000#32
  | .slti _ _ _ => 0x28000000#32
  | .sltiu _ _ _ => 0x2C000000#32
  | .andi _ _ _ => 0x30000000#32
  | .ori _ _ _ => 0x34000000#32
  | .xori _ _ _ => 0x38000000#32
  | .lui _ _ => 0x3C000000#32
  | .mult _ _ => 0x00000018#32
  | .multu _ _ => 0x00000019#32
  | .div _ _ => 0x0000001A#32
  | .divu _ _ => 0x0000001B#32
  | .mfhi _ => 0x00000010#32
  | .mthi _ => 0x00000011#32
  | .mflo _ => 0x00000012#32
  | .mtlo _ => 0x00000013#32
  | .j _ => 0x08000000#32
  | .jal _ => 0x0C000000#32
  | .jr _ => 0x00000008#32
  | .jalr _ _ => 0x00000009#32
  | .beq _ _ _ => 0x10000000#32
  | .bne _ _ _ => 0x14000000#32
  | .blez _ _ => 0x18000000#32
  | .bgtz _ _ => 0x1C000000#32
  | .bltz _ _ => 0x04000000#32
  | .bgez _ _ => 0x04010000#32
  | .bltzal _ _ => 0x04100000#32
  | .bgezal _ _ => 0x04110000#32
  | .lb _ _ _ => 0x80000000#32
  | .lbu _ _ _ => 0x90000000#32
  | .lh _ _ _ => 0x84000000#32
  | .lhu _ _ _ => 0x94000000#32
  | .lw _ _ _ => 0x8C000000#32
  | .lwl _ _ _ => 0x88000000#32
  | .lwr _ _ _ => 0x98000000#32
  | .sb _ _ _ => 0xA0000000#32
  | .sh _ _ _ => 0xA4000000#32
  | .sw _ _ _ => 0xAC000000#32
  | .swl _ _ _ => 0xA8000000#32
  | .swr _ _ _ => 0xB8000000#32
  | .syscall _ => 0x0000000C#32
  | .breakpoint _ => 0x0000000D#32
  | .mfc0 _ _ => 0x40000000#32
  | .cfc0 _ _ => 0x40400000#32
  | .mtc0 _ _ => 0x40800000#32
  | .ctc0 _ _ => 0x40C00000#32
  | .rfe => 0x42000010#32
  | .lwc0 _ _ _ => 0xC0000000#32
  | .swc0 _ _ _ => 0xE0000000#32
  | .mfc2 _ _ => 0x48000000#32
  | .cfc2 _ _ => 0x48400000#32
  | .mtc2 _ _ => 0x48800000#32
  | .ctc2 _ _ => 0x48C00000#32
  | .cop2 _ => 0x4A000000#32
  | .lwc2 _ _ _ => 0xC8000000#32
  | .swc2 _ _ _ => 0xE8000000#32
  | .cop1 => 0x44000000#32
  | .cop3 => 0x4C000000#32
  | .lwc1 => 0xC4000000#32
  | .lwc3 => 0xCC000000#32
  | .swc1 => 0xE4000000#32
  | .swc3 => 0xEC000000#32

/-! ### Masks act field by field -/

theorem rWord_and (a b : BitVec 6) (c d e f g h i j : BitVec 5) (k l : BitVec 6) :
    rWord a c e g i k &&& rWord b d f h j l = rWord (a &&& b) (c &&& d) (e &&& f) (g &&& h) (i &&& j) (k &&& l) := by
  refine BitVec.eq_of_getLsbD_eq fun n _ => ?_
  simp only [BitVec.getLsbD_and, getLsbD_rWord]
  repeat' split
  all_goals rfl

theorem iWord_and (a b : BitVec 6) (c d e f : BitVec 5) (g h : BitVec 16) :
    iWord a c e g &&& iWord b d f h = iWord (a &&& b) (c &&& d) (e &&& f) (g &&& h) := by
  refine BitVec.eq_of_getLsbD_eq fun n _ => ?_
  simp only [BitVec.getLsbD_and, getLsbD_iWord]
  repeat' split
  all_goals rfl

theorem jWord_and (a b : BitVec 6) (c d : BitVec 26) : jWord a c &&& jWord b d = jWord (a &&& b) (c &&& d) := by
  refine BitVec.eq_of_getLsbD_eq fun n _ => ?_
  simp only [BitVec.getLsbD_and, getLsbD_jWord]
  split <;> rfl

theorem codeWord_and (c : BitVec 20) (k : BitVec 6) (b : BitVec 6) (d : BitVec 20) (l : BitVec 6) :
    codeWord c k &&& (b ++ d ++ l : BitVec 32) = codeWord (c &&& d) (k &&& l) := by
  refine BitVec.eq_of_getLsbD_eq fun n _ => ?_
  simp only [BitVec.getLsbD_and, getLsbD_codeWord, BitVec.getLsbD_append]
  by_cases h6 : n < 6
  · simp [h6]
  · by_cases h26 : n < 26
    · have : n - 6 < 20 := by omega
      simp [h6, h26, this]
    · simp [h6, h26]

theorem copWord_and (a b : BitVec 6) (c d : BitVec 25) :
    copWord a c &&& (b ++ 0x1#1 ++ d : BitVec 32) = copWord (a &&& b) (c &&& d) := by
  refine BitVec.eq_of_getLsbD_eq fun n _ => ?_
  simp only [BitVec.getLsbD_and, getLsbD_copWord, BitVec.getLsbD_append]
  by_cases h25 : n < 25
  · simp [h25]
  · by_cases h26 : n < 26
    · have : n - 25 < 1 := by omega
      simp [h25, h26, this]
    · have h : ¬ n - 25 < 1 := by omega
      simp [h25, h26, h, Nat.sub_sub]

theorem and_ones5 (v : BitVec 5) : v &&& 0x1F#5 = v := BitVec.and_allOnes
theorem and_ones16 (v : BitVec 16) : v &&& 0xFFFF#16 = v := BitVec.and_allOnes
theorem and_ones20 (v : BitVec 20) : v &&& 0xFFFFF#20 = v := BitVec.and_allOnes
theorem and_ones25 (v : BitVec 25) : v &&& 0x1FFFFFF#25 = v := BitVec.and_allOnes
theorem and_ones26 (v : BitVec 26) : v &&& 0x3FFFFFF#26 = v := BitVec.and_allOnes

/-! ### The family -/

namespace RowPattern

/-- The word of `i` matches its row and uses no other bit. -/
def Statement (i : Instr) : Prop := encode i &&& rowMask i = rowMatch i ∧ encode i &&& usedBits i = encode i

theorem add (rd rs rt : RegIdx) : Statement (.add rd rs rt) := by
  refine ⟨?_, ?_⟩
  · show rWord 0x00#6 rs rt rd 0#5 0x20#6 &&& rWord 0x3F#6 0x0#5 0x0#5 0x0#5 0x0#5 0x3F#6 = _
    rw [rWord_and]; simp only [BitVec.and_zero]; rfl
  · show rWord 0x00#6 rs rt rd 0#5 0x20#6 &&& rWord 0x3F#6 0x1F#5 0x1F#5 0x1F#5 0x0#5 0x3F#6 = _
    rw [rWord_and]; simp only [and_ones5]; rfl

theorem addu (rd rs rt : RegIdx) : Statement (.addu rd rs rt) := by
  refine ⟨?_, ?_⟩
  · show rWord 0x00#6 rs rt rd 0#5 0x21#6 &&& rWord 0x3F#6 0x0#5 0x0#5 0x0#5 0x0#5 0x3F#6 = _
    rw [rWord_and]; simp only [BitVec.and_zero]; rfl
  · show rWord 0x00#6 rs rt rd 0#5 0x21#6 &&& rWord 0x3F#6 0x1F#5 0x1F#5 0x1F#5 0x0#5 0x3F#6 = _
    rw [rWord_and]; simp only [and_ones5]; rfl

theorem sub (rd rs rt : RegIdx) : Statement (.sub rd rs rt) := by
  refine ⟨?_, ?_⟩
  · show rWord 0x00#6 rs rt rd 0#5 0x22#6 &&& rWord 0x3F#6 0x0#5 0x0#5 0x0#5 0x0#5 0x3F#6 = _
    rw [rWord_and]; simp only [BitVec.and_zero]; rfl
  · show rWord 0x00#6 rs rt rd 0#5 0x22#6 &&& rWord 0x3F#6 0x1F#5 0x1F#5 0x1F#5 0x0#5 0x3F#6 = _
    rw [rWord_and]; simp only [and_ones5]; rfl

theorem subu (rd rs rt : RegIdx) : Statement (.subu rd rs rt) := by
  refine ⟨?_, ?_⟩
  · show rWord 0x00#6 rs rt rd 0#5 0x23#6 &&& rWord 0x3F#6 0x0#5 0x0#5 0x0#5 0x0#5 0x3F#6 = _
    rw [rWord_and]; simp only [BitVec.and_zero]; rfl
  · show rWord 0x00#6 rs rt rd 0#5 0x23#6 &&& rWord 0x3F#6 0x1F#5 0x1F#5 0x1F#5 0x0#5 0x3F#6 = _
    rw [rWord_and]; simp only [and_ones5]; rfl

theorem and (rd rs rt : RegIdx) : Statement (.and rd rs rt) := by
  refine ⟨?_, ?_⟩
  · show rWord 0x00#6 rs rt rd 0#5 0x24#6 &&& rWord 0x3F#6 0x0#5 0x0#5 0x0#5 0x0#5 0x3F#6 = _
    rw [rWord_and]; simp only [BitVec.and_zero]; rfl
  · show rWord 0x00#6 rs rt rd 0#5 0x24#6 &&& rWord 0x3F#6 0x1F#5 0x1F#5 0x1F#5 0x0#5 0x3F#6 = _
    rw [rWord_and]; simp only [and_ones5]; rfl

theorem or (rd rs rt : RegIdx) : Statement (.or rd rs rt) := by
  refine ⟨?_, ?_⟩
  · show rWord 0x00#6 rs rt rd 0#5 0x25#6 &&& rWord 0x3F#6 0x0#5 0x0#5 0x0#5 0x0#5 0x3F#6 = _
    rw [rWord_and]; simp only [BitVec.and_zero]; rfl
  · show rWord 0x00#6 rs rt rd 0#5 0x25#6 &&& rWord 0x3F#6 0x1F#5 0x1F#5 0x1F#5 0x0#5 0x3F#6 = _
    rw [rWord_and]; simp only [and_ones5]; rfl

theorem xor (rd rs rt : RegIdx) : Statement (.xor rd rs rt) := by
  refine ⟨?_, ?_⟩
  · show rWord 0x00#6 rs rt rd 0#5 0x26#6 &&& rWord 0x3F#6 0x0#5 0x0#5 0x0#5 0x0#5 0x3F#6 = _
    rw [rWord_and]; simp only [BitVec.and_zero]; rfl
  · show rWord 0x00#6 rs rt rd 0#5 0x26#6 &&& rWord 0x3F#6 0x1F#5 0x1F#5 0x1F#5 0x0#5 0x3F#6 = _
    rw [rWord_and]; simp only [and_ones5]; rfl

theorem nor (rd rs rt : RegIdx) : Statement (.nor rd rs rt) := by
  refine ⟨?_, ?_⟩
  · show rWord 0x00#6 rs rt rd 0#5 0x27#6 &&& rWord 0x3F#6 0x0#5 0x0#5 0x0#5 0x0#5 0x3F#6 = _
    rw [rWord_and]; simp only [BitVec.and_zero]; rfl
  · show rWord 0x00#6 rs rt rd 0#5 0x27#6 &&& rWord 0x3F#6 0x1F#5 0x1F#5 0x1F#5 0x0#5 0x3F#6 = _
    rw [rWord_and]; simp only [and_ones5]; rfl

theorem slt (rd rs rt : RegIdx) : Statement (.slt rd rs rt) := by
  refine ⟨?_, ?_⟩
  · show rWord 0x00#6 rs rt rd 0#5 0x2A#6 &&& rWord 0x3F#6 0x0#5 0x0#5 0x0#5 0x0#5 0x3F#6 = _
    rw [rWord_and]; simp only [BitVec.and_zero]; rfl
  · show rWord 0x00#6 rs rt rd 0#5 0x2A#6 &&& rWord 0x3F#6 0x1F#5 0x1F#5 0x1F#5 0x0#5 0x3F#6 = _
    rw [rWord_and]; simp only [and_ones5]; rfl

theorem sltu (rd rs rt : RegIdx) : Statement (.sltu rd rs rt) := by
  refine ⟨?_, ?_⟩
  · show rWord 0x00#6 rs rt rd 0#5 0x2B#6 &&& rWord 0x3F#6 0x0#5 0x0#5 0x0#5 0x0#5 0x3F#6 = _
    rw [rWord_and]; simp only [BitVec.and_zero]; rfl
  · show rWord 0x00#6 rs rt rd 0#5 0x2B#6 &&& rWord 0x3F#6 0x1F#5 0x1F#5 0x1F#5 0x0#5 0x3F#6 = _
    rw [rWord_and]; simp only [and_ones5]; rfl

theorem sll (rd rt : RegIdx) (shamt : BitVec 5) : Statement (.sll rd rt shamt) := by
  refine ⟨?_, ?_⟩
  · show rWord 0x00#6 0#5 rt rd shamt 0x00#6 &&& rWord 0x3F#6 0x0#5 0x0#5 0x0#5 0x0#5 0x3F#6 = _
    rw [rWord_and]; simp only [BitVec.and_zero]; rfl
  · show rWord 0x00#6 0#5 rt rd shamt 0x00#6 &&& rWord 0x3F#6 0x0#5 0x1F#5 0x1F#5 0x1F#5 0x3F#6 = _
    rw [rWord_and]; simp only [and_ones5]; rfl

theorem srl (rd rt : RegIdx) (shamt : BitVec 5) : Statement (.srl rd rt shamt) := by
  refine ⟨?_, ?_⟩
  · show rWord 0x00#6 0#5 rt rd shamt 0x02#6 &&& rWord 0x3F#6 0x0#5 0x0#5 0x0#5 0x0#5 0x3F#6 = _
    rw [rWord_and]; simp only [BitVec.and_zero]; rfl
  · show rWord 0x00#6 0#5 rt rd shamt 0x02#6 &&& rWord 0x3F#6 0x0#5 0x1F#5 0x1F#5 0x1F#5 0x3F#6 = _
    rw [rWord_and]; simp only [and_ones5]; rfl

theorem sra (rd rt : RegIdx) (shamt : BitVec 5) : Statement (.sra rd rt shamt) := by
  refine ⟨?_, ?_⟩
  · show rWord 0x00#6 0#5 rt rd shamt 0x03#6 &&& rWord 0x3F#6 0x0#5 0x0#5 0x0#5 0x0#5 0x3F#6 = _
    rw [rWord_and]; simp only [BitVec.and_zero]; rfl
  · show rWord 0x00#6 0#5 rt rd shamt 0x03#6 &&& rWord 0x3F#6 0x0#5 0x1F#5 0x1F#5 0x1F#5 0x3F#6 = _
    rw [rWord_and]; simp only [and_ones5]; rfl

theorem sllv (rd rt rs : RegIdx) : Statement (.sllv rd rt rs) := by
  refine ⟨?_, ?_⟩
  · show rWord 0x00#6 rs rt rd 0#5 0x04#6 &&& rWord 0x3F#6 0x0#5 0x0#5 0x0#5 0x0#5 0x3F#6 = _
    rw [rWord_and]; simp only [BitVec.and_zero]; rfl
  · show rWord 0x00#6 rs rt rd 0#5 0x04#6 &&& rWord 0x3F#6 0x1F#5 0x1F#5 0x1F#5 0x0#5 0x3F#6 = _
    rw [rWord_and]; simp only [and_ones5]; rfl

theorem srlv (rd rt rs : RegIdx) : Statement (.srlv rd rt rs) := by
  refine ⟨?_, ?_⟩
  · show rWord 0x00#6 rs rt rd 0#5 0x06#6 &&& rWord 0x3F#6 0x0#5 0x0#5 0x0#5 0x0#5 0x3F#6 = _
    rw [rWord_and]; simp only [BitVec.and_zero]; rfl
  · show rWord 0x00#6 rs rt rd 0#5 0x06#6 &&& rWord 0x3F#6 0x1F#5 0x1F#5 0x1F#5 0x0#5 0x3F#6 = _
    rw [rWord_and]; simp only [and_ones5]; rfl

theorem srav (rd rt rs : RegIdx) : Statement (.srav rd rt rs) := by
  refine ⟨?_, ?_⟩
  · show rWord 0x00#6 rs rt rd 0#5 0x07#6 &&& rWord 0x3F#6 0x0#5 0x0#5 0x0#5 0x0#5 0x3F#6 = _
    rw [rWord_and]; simp only [BitVec.and_zero]; rfl
  · show rWord 0x00#6 rs rt rd 0#5 0x07#6 &&& rWord 0x3F#6 0x1F#5 0x1F#5 0x1F#5 0x0#5 0x3F#6 = _
    rw [rWord_and]; simp only [and_ones5]; rfl

theorem addi (rt rs : RegIdx) (imm16 : BitVec 16) : Statement (.addi rt rs imm16) := by
  refine ⟨?_, ?_⟩
  · show iWord 0x08#6 rs rt imm16 &&& iWord 0x3F#6 0x0#5 0x0#5 0x0#16 = _
    rw [iWord_and]; simp only [BitVec.and_zero]; rfl
  · show iWord 0x08#6 rs rt imm16 &&& iWord 0x3F#6 0x1F#5 0x1F#5 0xFFFF#16 = _
    rw [iWord_and]; simp only [and_ones16, and_ones5]; rfl

theorem addiu (rt rs : RegIdx) (imm16 : BitVec 16) : Statement (.addiu rt rs imm16) := by
  refine ⟨?_, ?_⟩
  · show iWord 0x09#6 rs rt imm16 &&& iWord 0x3F#6 0x0#5 0x0#5 0x0#16 = _
    rw [iWord_and]; simp only [BitVec.and_zero]; rfl
  · show iWord 0x09#6 rs rt imm16 &&& iWord 0x3F#6 0x1F#5 0x1F#5 0xFFFF#16 = _
    rw [iWord_and]; simp only [and_ones16, and_ones5]; rfl

theorem slti (rt rs : RegIdx) (imm16 : BitVec 16) : Statement (.slti rt rs imm16) := by
  refine ⟨?_, ?_⟩
  · show iWord 0x0A#6 rs rt imm16 &&& iWord 0x3F#6 0x0#5 0x0#5 0x0#16 = _
    rw [iWord_and]; simp only [BitVec.and_zero]; rfl
  · show iWord 0x0A#6 rs rt imm16 &&& iWord 0x3F#6 0x1F#5 0x1F#5 0xFFFF#16 = _
    rw [iWord_and]; simp only [and_ones16, and_ones5]; rfl

theorem sltiu (rt rs : RegIdx) (imm16 : BitVec 16) : Statement (.sltiu rt rs imm16) := by
  refine ⟨?_, ?_⟩
  · show iWord 0x0B#6 rs rt imm16 &&& iWord 0x3F#6 0x0#5 0x0#5 0x0#16 = _
    rw [iWord_and]; simp only [BitVec.and_zero]; rfl
  · show iWord 0x0B#6 rs rt imm16 &&& iWord 0x3F#6 0x1F#5 0x1F#5 0xFFFF#16 = _
    rw [iWord_and]; simp only [and_ones16, and_ones5]; rfl

theorem andi (rt rs : RegIdx) (imm16 : BitVec 16) : Statement (.andi rt rs imm16) := by
  refine ⟨?_, ?_⟩
  · show iWord 0x0C#6 rs rt imm16 &&& iWord 0x3F#6 0x0#5 0x0#5 0x0#16 = _
    rw [iWord_and]; simp only [BitVec.and_zero]; rfl
  · show iWord 0x0C#6 rs rt imm16 &&& iWord 0x3F#6 0x1F#5 0x1F#5 0xFFFF#16 = _
    rw [iWord_and]; simp only [and_ones16, and_ones5]; rfl

theorem ori (rt rs : RegIdx) (imm16 : BitVec 16) : Statement (.ori rt rs imm16) := by
  refine ⟨?_, ?_⟩
  · show iWord 0x0D#6 rs rt imm16 &&& iWord 0x3F#6 0x0#5 0x0#5 0x0#16 = _
    rw [iWord_and]; simp only [BitVec.and_zero]; rfl
  · show iWord 0x0D#6 rs rt imm16 &&& iWord 0x3F#6 0x1F#5 0x1F#5 0xFFFF#16 = _
    rw [iWord_and]; simp only [and_ones16, and_ones5]; rfl

theorem xori (rt rs : RegIdx) (imm16 : BitVec 16) : Statement (.xori rt rs imm16) := by
  refine ⟨?_, ?_⟩
  · show iWord 0x0E#6 rs rt imm16 &&& iWord 0x3F#6 0x0#5 0x0#5 0x0#16 = _
    rw [iWord_and]; simp only [BitVec.and_zero]; rfl
  · show iWord 0x0E#6 rs rt imm16 &&& iWord 0x3F#6 0x1F#5 0x1F#5 0xFFFF#16 = _
    rw [iWord_and]; simp only [and_ones16, and_ones5]; rfl

theorem lui (rt : RegIdx) (imm16 : BitVec 16) : Statement (.lui rt imm16) := by
  refine ⟨?_, ?_⟩
  · show iWord 0x0F#6 0#5 rt imm16 &&& iWord 0x3F#6 0x0#5 0x0#5 0x0#16 = _
    rw [iWord_and]; simp only [BitVec.and_zero]; rfl
  · show iWord 0x0F#6 0#5 rt imm16 &&& iWord 0x3F#6 0x0#5 0x1F#5 0xFFFF#16 = _
    rw [iWord_and]; simp only [and_ones16, and_ones5]; rfl

theorem mult (rs rt : RegIdx) : Statement (.mult rs rt) := by
  refine ⟨?_, ?_⟩
  · show rWord 0x00#6 rs rt 0#5 0#5 0x18#6 &&& rWord 0x3F#6 0x0#5 0x0#5 0x0#5 0x0#5 0x3F#6 = _
    rw [rWord_and]; simp only [BitVec.and_zero]; rfl
  · show rWord 0x00#6 rs rt 0#5 0#5 0x18#6 &&& rWord 0x3F#6 0x1F#5 0x1F#5 0x0#5 0x0#5 0x3F#6 = _
    rw [rWord_and]; simp only [and_ones5]; rfl

theorem multu (rs rt : RegIdx) : Statement (.multu rs rt) := by
  refine ⟨?_, ?_⟩
  · show rWord 0x00#6 rs rt 0#5 0#5 0x19#6 &&& rWord 0x3F#6 0x0#5 0x0#5 0x0#5 0x0#5 0x3F#6 = _
    rw [rWord_and]; simp only [BitVec.and_zero]; rfl
  · show rWord 0x00#6 rs rt 0#5 0#5 0x19#6 &&& rWord 0x3F#6 0x1F#5 0x1F#5 0x0#5 0x0#5 0x3F#6 = _
    rw [rWord_and]; simp only [and_ones5]; rfl

theorem div (rs rt : RegIdx) : Statement (.div rs rt) := by
  refine ⟨?_, ?_⟩
  · show rWord 0x00#6 rs rt 0#5 0#5 0x1A#6 &&& rWord 0x3F#6 0x0#5 0x0#5 0x0#5 0x0#5 0x3F#6 = _
    rw [rWord_and]; simp only [BitVec.and_zero]; rfl
  · show rWord 0x00#6 rs rt 0#5 0#5 0x1A#6 &&& rWord 0x3F#6 0x1F#5 0x1F#5 0x0#5 0x0#5 0x3F#6 = _
    rw [rWord_and]; simp only [and_ones5]; rfl

theorem divu (rs rt : RegIdx) : Statement (.divu rs rt) := by
  refine ⟨?_, ?_⟩
  · show rWord 0x00#6 rs rt 0#5 0#5 0x1B#6 &&& rWord 0x3F#6 0x0#5 0x0#5 0x0#5 0x0#5 0x3F#6 = _
    rw [rWord_and]; simp only [BitVec.and_zero]; rfl
  · show rWord 0x00#6 rs rt 0#5 0#5 0x1B#6 &&& rWord 0x3F#6 0x1F#5 0x1F#5 0x0#5 0x0#5 0x3F#6 = _
    rw [rWord_and]; simp only [and_ones5]; rfl

theorem mfhi (rd : RegIdx) : Statement (.mfhi rd) := by
  refine ⟨?_, ?_⟩
  · show rWord 0x00#6 0#5 0#5 rd 0#5 0x10#6 &&& rWord 0x3F#6 0x0#5 0x0#5 0x0#5 0x0#5 0x3F#6 = _
    rw [rWord_and]; simp only [BitVec.and_zero]; rfl
  · show rWord 0x00#6 0#5 0#5 rd 0#5 0x10#6 &&& rWord 0x3F#6 0x0#5 0x0#5 0x1F#5 0x0#5 0x3F#6 = _
    rw [rWord_and]; simp only [and_ones5]; rfl

theorem mthi (rs : RegIdx) : Statement (.mthi rs) := by
  refine ⟨?_, ?_⟩
  · show rWord 0x00#6 rs 0#5 0#5 0#5 0x11#6 &&& rWord 0x3F#6 0x0#5 0x0#5 0x0#5 0x0#5 0x3F#6 = _
    rw [rWord_and]; simp only [BitVec.and_zero]; rfl
  · show rWord 0x00#6 rs 0#5 0#5 0#5 0x11#6 &&& rWord 0x3F#6 0x1F#5 0x0#5 0x0#5 0x0#5 0x3F#6 = _
    rw [rWord_and]; simp only [and_ones5]; rfl

theorem mflo (rd : RegIdx) : Statement (.mflo rd) := by
  refine ⟨?_, ?_⟩
  · show rWord 0x00#6 0#5 0#5 rd 0#5 0x12#6 &&& rWord 0x3F#6 0x0#5 0x0#5 0x0#5 0x0#5 0x3F#6 = _
    rw [rWord_and]; simp only [BitVec.and_zero]; rfl
  · show rWord 0x00#6 0#5 0#5 rd 0#5 0x12#6 &&& rWord 0x3F#6 0x0#5 0x0#5 0x1F#5 0x0#5 0x3F#6 = _
    rw [rWord_and]; simp only [and_ones5]; rfl

theorem mtlo (rs : RegIdx) : Statement (.mtlo rs) := by
  refine ⟨?_, ?_⟩
  · show rWord 0x00#6 rs 0#5 0#5 0#5 0x13#6 &&& rWord 0x3F#6 0x0#5 0x0#5 0x0#5 0x0#5 0x3F#6 = _
    rw [rWord_and]; simp only [BitVec.and_zero]; rfl
  · show rWord 0x00#6 rs 0#5 0#5 0#5 0x13#6 &&& rWord 0x3F#6 0x1F#5 0x0#5 0x0#5 0x0#5 0x3F#6 = _
    rw [rWord_and]; simp only [and_ones5]; rfl

theorem j (target26 : BitVec 26) : Statement (.j target26) := by
  refine ⟨?_, ?_⟩
  · show jWord 0x02#6 target26 &&& jWord 0x3F#6 0x0#26 = _
    rw [jWord_and]; simp only [BitVec.and_zero]; rfl
  · show jWord 0x02#6 target26 &&& jWord 0x3F#6 0x3FFFFFF#26 = _
    rw [jWord_and]; simp only [and_ones26]; rfl

theorem jal (target26 : BitVec 26) : Statement (.jal target26) := by
  refine ⟨?_, ?_⟩
  · show jWord 0x03#6 target26 &&& jWord 0x3F#6 0x0#26 = _
    rw [jWord_and]; simp only [BitVec.and_zero]; rfl
  · show jWord 0x03#6 target26 &&& jWord 0x3F#6 0x3FFFFFF#26 = _
    rw [jWord_and]; simp only [and_ones26]; rfl

theorem jr (rs : RegIdx) : Statement (.jr rs) := by
  refine ⟨?_, ?_⟩
  · show rWord 0x00#6 rs 0#5 0#5 0#5 0x08#6 &&& rWord 0x3F#6 0x0#5 0x0#5 0x0#5 0x0#5 0x3F#6 = _
    rw [rWord_and]; simp only [BitVec.and_zero]; rfl
  · show rWord 0x00#6 rs 0#5 0#5 0#5 0x08#6 &&& rWord 0x3F#6 0x1F#5 0x0#5 0x0#5 0x0#5 0x3F#6 = _
    rw [rWord_and]; simp only [and_ones5]; rfl

theorem jalr (rd rs : RegIdx) : Statement (.jalr rd rs) := by
  refine ⟨?_, ?_⟩
  · show rWord 0x00#6 rs 0#5 rd 0#5 0x09#6 &&& rWord 0x3F#6 0x0#5 0x0#5 0x0#5 0x0#5 0x3F#6 = _
    rw [rWord_and]; simp only [BitVec.and_zero]; rfl
  · show rWord 0x00#6 rs 0#5 rd 0#5 0x09#6 &&& rWord 0x3F#6 0x1F#5 0x0#5 0x1F#5 0x0#5 0x3F#6 = _
    rw [rWord_and]; simp only [and_ones5]; rfl

theorem beq (rs rt : RegIdx) (imm16 : BitVec 16) : Statement (.beq rs rt imm16) := by
  refine ⟨?_, ?_⟩
  · show iWord 0x04#6 rs rt imm16 &&& iWord 0x3F#6 0x0#5 0x0#5 0x0#16 = _
    rw [iWord_and]; simp only [BitVec.and_zero]; rfl
  · show iWord 0x04#6 rs rt imm16 &&& iWord 0x3F#6 0x1F#5 0x1F#5 0xFFFF#16 = _
    rw [iWord_and]; simp only [and_ones16, and_ones5]; rfl

theorem bne (rs rt : RegIdx) (imm16 : BitVec 16) : Statement (.bne rs rt imm16) := by
  refine ⟨?_, ?_⟩
  · show iWord 0x05#6 rs rt imm16 &&& iWord 0x3F#6 0x0#5 0x0#5 0x0#16 = _
    rw [iWord_and]; simp only [BitVec.and_zero]; rfl
  · show iWord 0x05#6 rs rt imm16 &&& iWord 0x3F#6 0x1F#5 0x1F#5 0xFFFF#16 = _
    rw [iWord_and]; simp only [and_ones16, and_ones5]; rfl

theorem blez (rs : RegIdx) (imm16 : BitVec 16) : Statement (.blez rs imm16) := by
  refine ⟨?_, ?_⟩
  · show iWord 0x06#6 rs 0#5 imm16 &&& iWord 0x3F#6 0x0#5 0x0#5 0x0#16 = _
    rw [iWord_and]; simp only [BitVec.and_zero]; rfl
  · show iWord 0x06#6 rs 0#5 imm16 &&& iWord 0x3F#6 0x1F#5 0x0#5 0xFFFF#16 = _
    rw [iWord_and]; simp only [and_ones16, and_ones5]; rfl

theorem bgtz (rs : RegIdx) (imm16 : BitVec 16) : Statement (.bgtz rs imm16) := by
  refine ⟨?_, ?_⟩
  · show iWord 0x07#6 rs 0#5 imm16 &&& iWord 0x3F#6 0x0#5 0x0#5 0x0#16 = _
    rw [iWord_and]; simp only [BitVec.and_zero]; rfl
  · show iWord 0x07#6 rs 0#5 imm16 &&& iWord 0x3F#6 0x1F#5 0x0#5 0xFFFF#16 = _
    rw [iWord_and]; simp only [and_ones16, and_ones5]; rfl

theorem bltz (rs : RegIdx) (imm16 : BitVec 16) : Statement (.bltz rs imm16) := by
  refine ⟨?_, ?_⟩
  · show iWord 0x01#6 rs 0x00#5 imm16 &&& iWord 0x3F#6 0x0#5 0x1F#5 0x0#16 = _
    rw [iWord_and]; simp only [BitVec.and_zero]; rfl
  · show iWord 0x01#6 rs 0x00#5 imm16 &&& iWord 0x3F#6 0x1F#5 0x1F#5 0xFFFF#16 = _
    rw [iWord_and]; simp only [and_ones16, and_ones5]; rfl

theorem bgez (rs : RegIdx) (imm16 : BitVec 16) : Statement (.bgez rs imm16) := by
  refine ⟨?_, ?_⟩
  · show iWord 0x01#6 rs 0x01#5 imm16 &&& iWord 0x3F#6 0x0#5 0x1F#5 0x0#16 = _
    rw [iWord_and]; simp only [BitVec.and_zero]; rfl
  · show iWord 0x01#6 rs 0x01#5 imm16 &&& iWord 0x3F#6 0x1F#5 0x1F#5 0xFFFF#16 = _
    rw [iWord_and]; simp only [and_ones16, and_ones5]; rfl

theorem bltzal (rs : RegIdx) (imm16 : BitVec 16) : Statement (.bltzal rs imm16) := by
  refine ⟨?_, ?_⟩
  · show iWord 0x01#6 rs 0x10#5 imm16 &&& iWord 0x3F#6 0x0#5 0x1F#5 0x0#16 = _
    rw [iWord_and]; simp only [BitVec.and_zero]; rfl
  · show iWord 0x01#6 rs 0x10#5 imm16 &&& iWord 0x3F#6 0x1F#5 0x1F#5 0xFFFF#16 = _
    rw [iWord_and]; simp only [and_ones16, and_ones5]; rfl

theorem bgezal (rs : RegIdx) (imm16 : BitVec 16) : Statement (.bgezal rs imm16) := by
  refine ⟨?_, ?_⟩
  · show iWord 0x01#6 rs 0x11#5 imm16 &&& iWord 0x3F#6 0x0#5 0x1F#5 0x0#16 = _
    rw [iWord_and]; simp only [BitVec.and_zero]; rfl
  · show iWord 0x01#6 rs 0x11#5 imm16 &&& iWord 0x3F#6 0x1F#5 0x1F#5 0xFFFF#16 = _
    rw [iWord_and]; simp only [and_ones16, and_ones5]; rfl

theorem lb (rt rs : RegIdx) (imm16 : BitVec 16) : Statement (.lb rt rs imm16) := by
  refine ⟨?_, ?_⟩
  · show iWord 0x20#6 rs rt imm16 &&& iWord 0x3F#6 0x0#5 0x0#5 0x0#16 = _
    rw [iWord_and]; simp only [BitVec.and_zero]; rfl
  · show iWord 0x20#6 rs rt imm16 &&& iWord 0x3F#6 0x1F#5 0x1F#5 0xFFFF#16 = _
    rw [iWord_and]; simp only [and_ones16, and_ones5]; rfl

theorem lbu (rt rs : RegIdx) (imm16 : BitVec 16) : Statement (.lbu rt rs imm16) := by
  refine ⟨?_, ?_⟩
  · show iWord 0x24#6 rs rt imm16 &&& iWord 0x3F#6 0x0#5 0x0#5 0x0#16 = _
    rw [iWord_and]; simp only [BitVec.and_zero]; rfl
  · show iWord 0x24#6 rs rt imm16 &&& iWord 0x3F#6 0x1F#5 0x1F#5 0xFFFF#16 = _
    rw [iWord_and]; simp only [and_ones16, and_ones5]; rfl

theorem lh (rt rs : RegIdx) (imm16 : BitVec 16) : Statement (.lh rt rs imm16) := by
  refine ⟨?_, ?_⟩
  · show iWord 0x21#6 rs rt imm16 &&& iWord 0x3F#6 0x0#5 0x0#5 0x0#16 = _
    rw [iWord_and]; simp only [BitVec.and_zero]; rfl
  · show iWord 0x21#6 rs rt imm16 &&& iWord 0x3F#6 0x1F#5 0x1F#5 0xFFFF#16 = _
    rw [iWord_and]; simp only [and_ones16, and_ones5]; rfl

theorem lhu (rt rs : RegIdx) (imm16 : BitVec 16) : Statement (.lhu rt rs imm16) := by
  refine ⟨?_, ?_⟩
  · show iWord 0x25#6 rs rt imm16 &&& iWord 0x3F#6 0x0#5 0x0#5 0x0#16 = _
    rw [iWord_and]; simp only [BitVec.and_zero]; rfl
  · show iWord 0x25#6 rs rt imm16 &&& iWord 0x3F#6 0x1F#5 0x1F#5 0xFFFF#16 = _
    rw [iWord_and]; simp only [and_ones16, and_ones5]; rfl

theorem lw (rt rs : RegIdx) (imm16 : BitVec 16) : Statement (.lw rt rs imm16) := by
  refine ⟨?_, ?_⟩
  · show iWord 0x23#6 rs rt imm16 &&& iWord 0x3F#6 0x0#5 0x0#5 0x0#16 = _
    rw [iWord_and]; simp only [BitVec.and_zero]; rfl
  · show iWord 0x23#6 rs rt imm16 &&& iWord 0x3F#6 0x1F#5 0x1F#5 0xFFFF#16 = _
    rw [iWord_and]; simp only [and_ones16, and_ones5]; rfl

theorem lwl (rt rs : RegIdx) (imm16 : BitVec 16) : Statement (.lwl rt rs imm16) := by
  refine ⟨?_, ?_⟩
  · show iWord 0x22#6 rs rt imm16 &&& iWord 0x3F#6 0x0#5 0x0#5 0x0#16 = _
    rw [iWord_and]; simp only [BitVec.and_zero]; rfl
  · show iWord 0x22#6 rs rt imm16 &&& iWord 0x3F#6 0x1F#5 0x1F#5 0xFFFF#16 = _
    rw [iWord_and]; simp only [and_ones16, and_ones5]; rfl

theorem lwr (rt rs : RegIdx) (imm16 : BitVec 16) : Statement (.lwr rt rs imm16) := by
  refine ⟨?_, ?_⟩
  · show iWord 0x26#6 rs rt imm16 &&& iWord 0x3F#6 0x0#5 0x0#5 0x0#16 = _
    rw [iWord_and]; simp only [BitVec.and_zero]; rfl
  · show iWord 0x26#6 rs rt imm16 &&& iWord 0x3F#6 0x1F#5 0x1F#5 0xFFFF#16 = _
    rw [iWord_and]; simp only [and_ones16, and_ones5]; rfl

theorem sb (rt rs : RegIdx) (imm16 : BitVec 16) : Statement (.sb rt rs imm16) := by
  refine ⟨?_, ?_⟩
  · show iWord 0x28#6 rs rt imm16 &&& iWord 0x3F#6 0x0#5 0x0#5 0x0#16 = _
    rw [iWord_and]; simp only [BitVec.and_zero]; rfl
  · show iWord 0x28#6 rs rt imm16 &&& iWord 0x3F#6 0x1F#5 0x1F#5 0xFFFF#16 = _
    rw [iWord_and]; simp only [and_ones16, and_ones5]; rfl

theorem sh (rt rs : RegIdx) (imm16 : BitVec 16) : Statement (.sh rt rs imm16) := by
  refine ⟨?_, ?_⟩
  · show iWord 0x29#6 rs rt imm16 &&& iWord 0x3F#6 0x0#5 0x0#5 0x0#16 = _
    rw [iWord_and]; simp only [BitVec.and_zero]; rfl
  · show iWord 0x29#6 rs rt imm16 &&& iWord 0x3F#6 0x1F#5 0x1F#5 0xFFFF#16 = _
    rw [iWord_and]; simp only [and_ones16, and_ones5]; rfl

theorem sw (rt rs : RegIdx) (imm16 : BitVec 16) : Statement (.sw rt rs imm16) := by
  refine ⟨?_, ?_⟩
  · show iWord 0x2B#6 rs rt imm16 &&& iWord 0x3F#6 0x0#5 0x0#5 0x0#16 = _
    rw [iWord_and]; simp only [BitVec.and_zero]; rfl
  · show iWord 0x2B#6 rs rt imm16 &&& iWord 0x3F#6 0x1F#5 0x1F#5 0xFFFF#16 = _
    rw [iWord_and]; simp only [and_ones16, and_ones5]; rfl

theorem swl (rt rs : RegIdx) (imm16 : BitVec 16) : Statement (.swl rt rs imm16) := by
  refine ⟨?_, ?_⟩
  · show iWord 0x2A#6 rs rt imm16 &&& iWord 0x3F#6 0x0#5 0x0#5 0x0#16 = _
    rw [iWord_and]; simp only [BitVec.and_zero]; rfl
  · show iWord 0x2A#6 rs rt imm16 &&& iWord 0x3F#6 0x1F#5 0x1F#5 0xFFFF#16 = _
    rw [iWord_and]; simp only [and_ones16, and_ones5]; rfl

theorem swr (rt rs : RegIdx) (imm16 : BitVec 16) : Statement (.swr rt rs imm16) := by
  refine ⟨?_, ?_⟩
  · show iWord 0x2E#6 rs rt imm16 &&& iWord 0x3F#6 0x0#5 0x0#5 0x0#16 = _
    rw [iWord_and]; simp only [BitVec.and_zero]; rfl
  · show iWord 0x2E#6 rs rt imm16 &&& iWord 0x3F#6 0x1F#5 0x1F#5 0xFFFF#16 = _
    rw [iWord_and]; simp only [and_ones16, and_ones5]; rfl

theorem syscall (code20 : BitVec 20) : Statement (.syscall code20) := by
  refine ⟨?_, ?_⟩
  · show codeWord code20 0x0C#6 &&& (0x3F#6 ++ 0x0#20 ++ 0x3F#6 : BitVec 32) = _
    rw [codeWord_and]; simp only [BitVec.and_zero]; rfl
  · show codeWord code20 0x0C#6 &&& (0x3F#6 ++ 0xFFFFF#20 ++ 0x3F#6 : BitVec 32) = _
    rw [codeWord_and]; simp only [and_ones20]; rfl

theorem breakpoint (code20 : BitVec 20) : Statement (.breakpoint code20) := by
  refine ⟨?_, ?_⟩
  · show codeWord code20 0x0D#6 &&& (0x3F#6 ++ 0x0#20 ++ 0x3F#6 : BitVec 32) = _
    rw [codeWord_and]; simp only [BitVec.and_zero]; rfl
  · show codeWord code20 0x0D#6 &&& (0x3F#6 ++ 0xFFFFF#20 ++ 0x3F#6 : BitVec 32) = _
    rw [codeWord_and]; simp only [and_ones20]; rfl

theorem mfc0 (rt rd : RegIdx) : Statement (.mfc0 rt rd) := by
  refine ⟨?_, ?_⟩
  · show rWord 0x10#6 0x00#5 rt rd 0#5 0#6 &&& rWord 0x3F#6 0x1F#5 0x0#5 0x0#5 0x0#5 0x0#6 = _
    rw [rWord_and]; simp only [BitVec.and_zero]; rfl
  · show rWord 0x10#6 0x00#5 rt rd 0#5 0#6 &&& rWord 0x3F#6 0x1F#5 0x1F#5 0x1F#5 0x0#5 0x0#6 = _
    rw [rWord_and]; simp only [and_ones5]; rfl

theorem cfc0 (rt rd : RegIdx) : Statement (.cfc0 rt rd) := by
  refine ⟨?_, ?_⟩
  · show rWord 0x10#6 0x02#5 rt rd 0#5 0#6 &&& rWord 0x3F#6 0x1F#5 0x0#5 0x0#5 0x0#5 0x0#6 = _
    rw [rWord_and]; simp only [BitVec.and_zero]; rfl
  · show rWord 0x10#6 0x02#5 rt rd 0#5 0#6 &&& rWord 0x3F#6 0x1F#5 0x1F#5 0x1F#5 0x0#5 0x0#6 = _
    rw [rWord_and]; simp only [and_ones5]; rfl

theorem mtc0 (rt rd : RegIdx) : Statement (.mtc0 rt rd) := by
  refine ⟨?_, ?_⟩
  · show rWord 0x10#6 0x04#5 rt rd 0#5 0#6 &&& rWord 0x3F#6 0x1F#5 0x0#5 0x0#5 0x0#5 0x0#6 = _
    rw [rWord_and]; simp only [BitVec.and_zero]; rfl
  · show rWord 0x10#6 0x04#5 rt rd 0#5 0#6 &&& rWord 0x3F#6 0x1F#5 0x1F#5 0x1F#5 0x0#5 0x0#6 = _
    rw [rWord_and]; simp only [and_ones5]; rfl

theorem ctc0 (rt rd : RegIdx) : Statement (.ctc0 rt rd) := by
  refine ⟨?_, ?_⟩
  · show rWord 0x10#6 0x06#5 rt rd 0#5 0#6 &&& rWord 0x3F#6 0x1F#5 0x0#5 0x0#5 0x0#5 0x0#6 = _
    rw [rWord_and]; simp only [BitVec.and_zero]; rfl
  · show rWord 0x10#6 0x06#5 rt rd 0#5 0#6 &&& rWord 0x3F#6 0x1F#5 0x1F#5 0x1F#5 0x0#5 0x0#6 = _
    rw [rWord_and]; simp only [and_ones5]; rfl

theorem rfe : Statement .rfe := by unfold Statement; decide

theorem lwc0 (rt rs : RegIdx) (imm16 : BitVec 16) : Statement (.lwc0 rt rs imm16) := by
  refine ⟨?_, ?_⟩
  · show iWord 0x30#6 rs rt imm16 &&& iWord 0x3F#6 0x0#5 0x0#5 0x0#16 = _
    rw [iWord_and]; simp only [BitVec.and_zero]; rfl
  · show iWord 0x30#6 rs rt imm16 &&& iWord 0x3F#6 0x1F#5 0x1F#5 0xFFFF#16 = _
    rw [iWord_and]; simp only [and_ones16, and_ones5]; rfl

theorem swc0 (rt rs : RegIdx) (imm16 : BitVec 16) : Statement (.swc0 rt rs imm16) := by
  refine ⟨?_, ?_⟩
  · show iWord 0x38#6 rs rt imm16 &&& iWord 0x3F#6 0x0#5 0x0#5 0x0#16 = _
    rw [iWord_and]; simp only [BitVec.and_zero]; rfl
  · show iWord 0x38#6 rs rt imm16 &&& iWord 0x3F#6 0x1F#5 0x1F#5 0xFFFF#16 = _
    rw [iWord_and]; simp only [and_ones16, and_ones5]; rfl

theorem mfc2 (rt rd : RegIdx) : Statement (.mfc2 rt rd) := by
  refine ⟨?_, ?_⟩
  · show rWord 0x12#6 0x00#5 rt rd 0#5 0#6 &&& rWord 0x3F#6 0x1F#5 0x0#5 0x0#5 0x0#5 0x0#6 = _
    rw [rWord_and]; simp only [BitVec.and_zero]; rfl
  · show rWord 0x12#6 0x00#5 rt rd 0#5 0#6 &&& rWord 0x3F#6 0x1F#5 0x1F#5 0x1F#5 0x0#5 0x0#6 = _
    rw [rWord_and]; simp only [and_ones5]; rfl

theorem cfc2 (rt rd : RegIdx) : Statement (.cfc2 rt rd) := by
  refine ⟨?_, ?_⟩
  · show rWord 0x12#6 0x02#5 rt rd 0#5 0#6 &&& rWord 0x3F#6 0x1F#5 0x0#5 0x0#5 0x0#5 0x0#6 = _
    rw [rWord_and]; simp only [BitVec.and_zero]; rfl
  · show rWord 0x12#6 0x02#5 rt rd 0#5 0#6 &&& rWord 0x3F#6 0x1F#5 0x1F#5 0x1F#5 0x0#5 0x0#6 = _
    rw [rWord_and]; simp only [and_ones5]; rfl

theorem mtc2 (rt rd : RegIdx) : Statement (.mtc2 rt rd) := by
  refine ⟨?_, ?_⟩
  · show rWord 0x12#6 0x04#5 rt rd 0#5 0#6 &&& rWord 0x3F#6 0x1F#5 0x0#5 0x0#5 0x0#5 0x0#6 = _
    rw [rWord_and]; simp only [BitVec.and_zero]; rfl
  · show rWord 0x12#6 0x04#5 rt rd 0#5 0#6 &&& rWord 0x3F#6 0x1F#5 0x1F#5 0x1F#5 0x0#5 0x0#6 = _
    rw [rWord_and]; simp only [and_ones5]; rfl

theorem ctc2 (rt rd : RegIdx) : Statement (.ctc2 rt rd) := by
  refine ⟨?_, ?_⟩
  · show rWord 0x12#6 0x06#5 rt rd 0#5 0#6 &&& rWord 0x3F#6 0x1F#5 0x0#5 0x0#5 0x0#5 0x0#6 = _
    rw [rWord_and]; simp only [BitVec.and_zero]; rfl
  · show rWord 0x12#6 0x06#5 rt rd 0#5 0#6 &&& rWord 0x3F#6 0x1F#5 0x1F#5 0x1F#5 0x0#5 0x0#6 = _
    rw [rWord_and]; simp only [and_ones5]; rfl

theorem cop2 (imm25 : BitVec 25) : Statement (.cop2 imm25) := by
  refine ⟨?_, ?_⟩
  · show copWord 0x12#6 imm25 &&& (0x3F#6 ++ 0x1#1 ++ 0x0#25 : BitVec 32) = _
    rw [copWord_and]; simp only [BitVec.and_zero]; rfl
  · show copWord 0x12#6 imm25 &&& (0x3F#6 ++ 0x1#1 ++ 0x1FFFFFF#25 : BitVec 32) = _
    rw [copWord_and]; simp only [and_ones25]; rfl

theorem lwc2 (rt rs : RegIdx) (imm16 : BitVec 16) : Statement (.lwc2 rt rs imm16) := by
  refine ⟨?_, ?_⟩
  · show iWord 0x32#6 rs rt imm16 &&& iWord 0x3F#6 0x0#5 0x0#5 0x0#16 = _
    rw [iWord_and]; simp only [BitVec.and_zero]; rfl
  · show iWord 0x32#6 rs rt imm16 &&& iWord 0x3F#6 0x1F#5 0x1F#5 0xFFFF#16 = _
    rw [iWord_and]; simp only [and_ones16, and_ones5]; rfl

theorem swc2 (rt rs : RegIdx) (imm16 : BitVec 16) : Statement (.swc2 rt rs imm16) := by
  refine ⟨?_, ?_⟩
  · show iWord 0x3A#6 rs rt imm16 &&& iWord 0x3F#6 0x0#5 0x0#5 0x0#16 = _
    rw [iWord_and]; simp only [BitVec.and_zero]; rfl
  · show iWord 0x3A#6 rs rt imm16 &&& iWord 0x3F#6 0x1F#5 0x1F#5 0xFFFF#16 = _
    rw [iWord_and]; simp only [and_ones16, and_ones5]; rfl

theorem cop1 : Statement .cop1 := by unfold Statement; decide

theorem cop3 : Statement .cop3 := by unfold Statement; decide

theorem lwc1 : Statement .lwc1 := by unfold Statement; decide

theorem lwc3 : Statement .lwc3 := by unfold Statement; decide

theorem swc1 : Statement .swc1 := by unfold Statement; decide

theorem swc3 : Statement .swc3 := by unfold Statement; decide

end RowPattern

end Sys2Proof.Laws
end

