-- ==== Sys2Proof/Tests/Slice0.lean ====
section
/-! SUPPORT. The model's own tests. Expected results are the examples of the instruction rules and the tables of
95_test_vectors.md; each test runs words the spec writes out, so it tests their decoding too. After them: the checks
of WellFormed with a term each refuses, and a witness for the hypotheses of every obligation that has some. -/

namespace Sys2Proof.Tests

open Sys2Proof Sys2Proof.Machine

/-! ## Helpers -/

/-- The setting of 95_test_vectors.md section 2: SR = 0 and the instruction at 0x80010000. -/
def base : State :=
  { State.reset.writeCp0 12#5 0#32 with
    currentPc := 0x80010000#32, nextInstructionPc := 0x80010004#32, nextPc := 0x80010008#32 }

/-- Registers set. -/
def regs (l : List (RegIdx × Word)) (s : State) : State := l.foldl (fun s p => s.writeReg p.1 p.2) s

/-- r1 and r2 set in the base state. -/
def two (a b : Word) : State := regs [(1#5, a), (2#5, b)] base

/-- The state after the word is executed. -/
def run (w : Word) (s : State) : Option State :=
  match execute { s with currentInstruction := w } with
  | .next t => some t
  | _ => none

/-- What `f` reads after the word is executed. -/
def after {α : Type} (f : State → α) (w : Word) (s : State) : Option α := (run w s).map f

/-- The setting of section 2.6: r1 = 0x80001000, two words in RAM, r2 = 0xAABBCCDD. -/
def mem : State :=
  { two 0x80001000#32 0xAABBCCDD#32 with
    mem := (Memory.writeBytes [] 4 0x1000 0x44332211#32).writeBytes 4 0x1004 0x88776655#32 }

/-- The first of those words. -/
def word (s : State) : Word := composeBytes s.mem.read 4 0x1000

/-- SR replaced. -/
def withSr (sr : Word) (s : State) : State := s.writeCp0 12#5 sr

/-- Cause, EPC, SR and the next fetch. -/
def entry (s : State) : Word × Word × Word × Word := (s.cause, s.epc, s.sr, s.nextPc)

/-! ## ALU (40_alu.md, 95_test_vectors.md sections 1.3, 2.1 to 2.3) -/

theorem test_add : after (·.x 3#5) 0x00221820#32 (two 5#32 7#32) = some 12#32 ∧ after (·.x 3#5) 0x00221820#32 (two 0xFFFFFFFF#32 1#32) = some 0#32 := by decide
theorem test_add_overflow :
    after (fun t => (t.x 3#5, entry t)) 0x00221820#32 (two 0x7FFFFFFF#32 1#32)
      = some (0#32, 0x30#32, 0x80010000#32, 0#32, 0x80000080#32) := by decide
theorem test_addu : after (·.x 3#5) 0x00221821#32 (two 0x7FFFFFFF#32 1#32) = some 0x80000000#32 ∧ after (·.x 1#5) 0x00210821#32 (two 0x40000000#32 0#32) = some 0x80000000#32 := by decide
theorem test_sub : after (·.x 3#5) 0x00221822#32 (two 0xFFFFFFFF#32 0x7FFFFFFF#32) = some 0x80000000#32 := by decide
theorem test_sub_overflow :
    after (fun t => (t.x 3#5, t.cause)) 0x00221822#32 (two 0x80000000#32 1#32) = some (0#32, 0x30#32)
      ∧ after (·.cause) 0x00221822#32 (two 0#32 0x80000000#32) = some 0x30#32 := by decide
theorem test_subu : after (·.x 3#5) 0x00221823#32 (two 0#32 1#32) = some 0xFFFFFFFF#32 ∧ after (·.x 3#5) 0x00221823#32 (two 0x80000000#32 1#32) = some 0x7FFFFFFF#32 := by decide
theorem test_and : after (·.x 3#5) 0x00221824#32 (two 0xF0F0F0F0#32 0xFF00FF00#32) = some 0xF000F000#32 := by decide
theorem test_or : after (·.x 3#5) 0x00221825#32 (two 0xF0F0F0F0#32 0xFF00FF00#32) = some 0xFFF0FFF0#32 := by decide
theorem test_xor : after (·.x 3#5) 0x00221826#32 (two 0xF0F0F0F0#32 0xFF00FF00#32) = some 0x0FF00FF0#32 := by decide
theorem test_nor : after (·.x 3#5) 0x00221827#32 (two 0xF0F0F0F0#32 0xFF00FF00#32) = some 0x000F000F#32 := by decide
theorem test_slt : after (·.x 3#5) 0x0022182A#32 (two 0x80000000#32 1#32) = some 1#32 ∧ after (·.x 3#5) 0x0021182A#32 (two 5#32 0#32) = some 0#32 := by decide
theorem test_sltu : after (·.x 3#5) 0x0022182B#32 (two 0x80000000#32 1#32) = some 0#32 ∧ after (·.x 3#5) 0x0022182B#32 (two 0#32 1#32) = some 1#32 := by decide
theorem test_sll : after (·.x 2#5) 0x00011100#32 (two 0x80000001#32 0#32) = some 0x10#32 ∧ after (·.x 2#5) 0x00011000#32 (two 0x12345678#32 0#32) = some 0x12345678#32 := by decide
theorem test_srl : after (·.x 2#5) 0x00011102#32 (two 0x80000000#32 0#32) = some 0x08000000#32 := by decide
theorem test_sra : after (·.x 2#5) 0x00011103#32 (two 0x80000000#32 0#32) = some 0xF8000000#32 ∧ after (·.x 2#5) 0x000117C3#32 (two 0x80000000#32 0#32) = some 0xFFFFFFFF#32 := by decide
theorem test_sllv : after (·.x 3#5) 0x00411804#32 (two 1#32 0xFFFFFFE0#32) = some 1#32 := by decide
theorem test_srlv : after (·.x 3#5) 0x00411806#32 (two 0x80000000#32 33#32) = some 0x40000000#32 := by decide
theorem test_srav : after (·.x 3#5) 0x00411807#32 (two 0x80000000#32 31#32) = some 0xFFFFFFFF#32 := by decide
theorem test_addi : after (·.x 1#5) 0x2021FFF6#32 (two 10#32 0#32) = some 0#32 := by decide
theorem test_addi_overflow :
    after (fun t => (t.x 2#5, t.cause)) 0x20227FFF#32 (two 0x7FFFFFFF#32 9#32) = some (9#32, 0x30#32) := by decide
theorem test_addiu : after (·.x 2#5) 0x2422FFFF#32 (two 0#32 0#32) = some 0xFFFFFFFF#32 ∧ after (·.x 2#5) 0x2422FFFF#32 (two 0x80000000#32 0#32) = some 0x7FFFFFFF#32 := by decide
theorem test_slti : after (·.x 2#5) 0x2822FFFF#32 (two 0x80000000#32 0#32) = some 1#32 ∧ after (·.x 2#5) 0x2822FFFF#32 (two 0xFFFFFFFF#32 0#32) = some 0#32 := by decide
theorem test_sltiu : after (·.x 2#5) 0x2C22FFFF#32 (two 0xFFFFFFFE#32 0#32) = some 1#32 ∧ after (·.x 2#5) 0x2C22FFFF#32 (two 0xFFFFFFFF#32 0#32) = some 0#32 := by decide
theorem test_andi : after (·.x 2#5) 0x3022FFFF#32 (two 0x12345678#32 0#32) = some 0x00005678#32 := by decide
theorem test_ori : after (·.x 2#5) 0x34228000#32 (two 0#32 0#32) = some 0x00008000#32 := by decide
theorem test_xori : after (·.x 2#5) 0x3822FFFF#32 (two 0xFFFFFFFF#32 0#32) = some 0xFFFF0000#32 := by decide
theorem test_lui : after (·.x 1#5) 0x3C01FFFF#32 (two 7#32 0#32) = some 0xFFFF0000#32 := by decide
/-- A write to register 0 is discarded, and ADD into it still traps (R262, section 2.1). -/
theorem test_add_r0_traps : after (·.cause) 0x00220020#32 (two 0x7FFFFFFF#32 1#32) = some 0x30#32
    ∧ after (fun t => (t.x 0#5, t.s3)) 0x00220020#32 (two 1#32 1#32)
      = some (0#32, (two 1#32 1#32).s3) := by decide

/-! ## Multiply and divide (41_muldiv.md, sections 1.4 and 2.4) -/

theorem test_mult : after (fun t => (t.hi, t.lo)) 0x00220018#32 (two 0x80000000#32 0x7FFFFFFF#32) = some (0xC0000000#32, 0x80000000#32) ∧ after (fun t => (t.hi, t.lo)) 0x00220018#32 (two 0xFFFFFFFF#32 2#32) = some (0xFFFFFFFF#32, 0xFFFFFFFE#32) := by decide
theorem test_multu : after (fun t => (t.hi, t.lo)) 0x00220019#32 (two 0xFFFFFFFF#32 0xFFFFFFFF#32) = some (0xFFFFFFFE#32, 1#32) ∧ after (fun t => (t.hi, t.lo)) 0x00220019#32 (two 0xFFFFFFFF#32 2#32) = some (1#32, 0xFFFFFFFE#32) := by decide
theorem test_div : after (fun t => (t.hi, t.lo)) 0x0022001A#32 (two 0xFFFFFFF9#32 2#32) = some (0xFFFFFFFF#32, 0xFFFFFFFD#32) ∧ after (fun t => (t.hi, t.lo)) 0x0022001A#32 (two 7#32 0xFFFFFFFE#32) = some (1#32, 0xFFFFFFFD#32) := by decide
theorem test_div_corners : after (fun t => (t.hi, t.lo)) 0x0022001A#32 (two 5#32 0#32) = some (5#32, 0xFFFFFFFF#32) ∧ after (fun t => (t.hi, t.lo)) 0x0022001A#32 (two 0xFFFFFFFB#32 0#32) = some (0xFFFFFFFB#32, 1#32) ∧ after (fun t => (t.hi, t.lo)) 0x0022001A#32 (two 0x80000000#32 0xFFFFFFFF#32) = some (0#32, 0x80000000#32) := by decide
theorem test_divu : after (fun t => (t.hi, t.lo)) 0x0022001B#32 (two 0x80000000#32 0xFFFFFFFF#32) = some (0x80000000#32, 0#32) ∧ after (fun t => (t.hi, t.lo)) 0x0022001B#32 (two 7#32 0#32) = some (7#32, 0xFFFFFFFF#32) := by decide
theorem test_mfhi : after (·.x 3#5) 0x00001810#32 (base.writeHiLo 7#32 9#32) = some 7#32 := by decide
theorem test_mflo : after (·.x 3#5) 0x00001812#32 (base.writeHiLo 7#32 9#32) = some 9#32 := by decide
theorem test_mthi : after (fun t => (t.hi, t.lo)) 0x00200011#32 ((two 5#32 0#32).writeHiLo 7#32 9#32)
    = some (5#32, 9#32) := by decide
theorem test_mtlo : after (fun t => (t.hi, t.lo)) 0x00200013#32 ((two 5#32 0#32).writeHiLo 7#32 9#32)
    = some (7#32, 5#32) := by decide

/-! ## Jumps and branches (42_branch.md, section 2.5) -/

/-- The next fetch, the mark of the delay slot, and r31. -/
def jump (t : State) : Word × Bool × Word := (t.nextPc, t.branchTaken, t.x 31#5)

theorem test_j : after jump 0x08004040#32 base = some (0x80010100#32, true, 0#32)
    ∧ after jump 0x08000100#32 { base with nextPc := 0x90000000#32 } = some (0x90000400#32, true, 0#32) := by decide
theorem test_jal : after jump 0x0C004040#32 base = some (0x80010100#32, true, 0x80010008#32) := by decide
theorem test_jr : after jump 0x00200008#32 (two 0x80010002#32 0#32) = some (0x80010002#32, true, 0#32) := by decide
theorem test_jalr : after (fun t => (t.nextPc, t.x 3#5)) 0x00601809#32 (regs [(3#5, 0x80020000#32)] base)
    = some (0x80020000#32, 0x80010008#32) := by decide
theorem test_beq : after jump 0x10228000#32 (two 4#32 4#32) = some (0x7FFF0004#32, true, 0#32)
    ∧ after jump 0x10220003#32 (two 4#32 5#32) = some (0x80010008#32, false, 0#32) := by decide
theorem test_bne : after jump 0x1420FFFF#32 (two 4#32 0#32) = some (0x80010000#32, true, 0#32) := by decide
theorem test_blez : after jump 0x18200002#32 (two 0#32 0#32) = some (0x8001000C#32, true, 0#32) ∧ after jump 0x18200002#32 (two 0x80000000#32 0#32) = some (0x8001000C#32, true, 0#32) ∧ after jump 0x18200002#32 (two 1#32 0#32) = some (0x80010008#32, false, 0#32) := by decide
theorem test_bgtz : after jump 0x1C200002#32 (two 1#32 0#32) = some (0x8001000C#32, true, 0#32) ∧ after jump 0x1C200002#32 (two 0#32 0#32) = some (0x80010008#32, false, 0#32) ∧ after jump 0x1C200002#32 (two 0xFFFFFFFF#32 0#32) = some (0x80010008#32, false, 0#32) := by decide
theorem test_bltz : after jump 0x04200002#32 (two 0xFFFFFFFF#32 0#32) = some (0x8001000C#32, true, 0#32) ∧ after jump 0x04200002#32 (two 0#32 0#32) = some (0x80010008#32, false, 0#32) := by decide
theorem test_bgez : after jump 0x04210002#32 (two 0#32 0#32) = some (0x8001000C#32, true, 0#32) ∧ after jump 0x04210002#32 (two 0x80000000#32 0#32) = some (0x80010008#32, false, 0#32) := by decide
theorem test_bltzal : after jump 0x04300002#32 (two 1#32 0#32) = some (0x80010008#32, false, 0x80010008#32)
    ∧ after jump 0x07F00002#32 (regs [(31#5, 0xFFFFFFFF#32)] base) = some (0x8001000C#32, true, 0x80010008#32) := by
  decide
theorem test_bgezal : after jump 0x04110002#32 base = some (0x8001000C#32, true, 0x80010008#32) := by decide

/-! ## Loads and stores (43_loadstore.md, section 2.6) -/

/-- The value a load put into stage S1 of r2, and the old value ordinary reads still see. -/
def loaded (t : State) : Word × Word := (t.xf 2#5, t.x 2#5)

theorem test_lb : after loaded 0x80220007#32 mem = some (0xFFFFFF88#32, 0xAABBCCDD#32) := by decide
theorem test_lbu : after loaded 0x90220007#32 mem = some (0x88#32, 0xAABBCCDD#32) := by decide
theorem test_lh : after loaded 0x84220006#32 mem = some (0xFFFF8877#32, 0xAABBCCDD#32) := by decide
theorem test_lhu : after loaded 0x94220006#32 mem = some (0x8877#32, 0xAABBCCDD#32) := by decide
theorem test_lw : after loaded 0x8C220004#32 mem = some (0x88776655#32, 0xAABBCCDD#32) := by decide
theorem test_lh_misaligned : after (fun t => (t.cause, t.badVAddr, loaded t)) 0x84220001#32 mem
    = some (0x10#32, 0x80001001#32, 0xAABBCCDD#32, 0xAABBCCDD#32) := by decide
theorem test_lw_unmapped : after (·.cause) 0x8C220000#32 (two 0x80800000#32 0#32) = some 0x1C#32
    ∧ after (·.cause) 0x8C220000#32 (two 0xFFFE0200#32 0#32) = some 0x1C#32 := by decide
/-- r1 = `a`, all four byte offsets: the words are the k = 1 word of section 2.6 with its offset field changed. -/
theorem test_lwl : after loaded 0x88220000#32 mem = some (0x11BBCCDD#32, 0xAABBCCDD#32)
    ∧ after loaded 0x88220001#32 mem = some (0x2211CCDD#32, 0xAABBCCDD#32)
    ∧ after loaded 0x88220002#32 mem = some (0x332211DD#32, 0xAABBCCDD#32)
    ∧ after loaded 0x88220003#32 mem = some (0x44332211#32, 0xAABBCCDD#32) := by decide
theorem test_lwr : after loaded 0x98220000#32 mem = some (0x44332211#32, 0xAABBCCDD#32)
    ∧ after loaded 0x98220001#32 mem = some (0xAA443322#32, 0xAABBCCDD#32)
    ∧ after loaded 0x98220002#32 mem = some (0xAABB4433#32, 0xAABBCCDD#32)
    ∧ after loaded 0x98220003#32 mem = some (0xAABBCC44#32, 0xAABBCCDD#32) := by decide
theorem test_sb : after word 0xA0220001#32 (regs [(2#5, 0x12345678#32)] mem) = some 0x44337811#32 := by decide
theorem test_sh : after word 0xA4220002#32 (regs [(2#5, 0x12345678#32)] mem) = some 0x56782211#32 := by decide
theorem test_sh_misaligned : after (fun t => (t.cause, t.badVAddr, word t)) 0xA4220001#32 mem
    = some (0x14#32, 0x80001001#32, 0x44332211#32) := by decide
theorem test_sw : after word 0xAC220000#32 (regs [(2#5, 0x12345678#32)] mem) = some 0x12345678#32 := by decide
/-- A store to BIOS is ignored, and one under isolation is suppressed. -/
theorem test_sw_ignored : after (fun t => (t.cause, t.mem)) 0xAC220000#32 (regs [(1#5, 0xBFC00000#32)] mem)
      = some (0#32, mem.mem)
    ∧ after (fun t => (t.cause, t.mem)) 0xAC220000#32 (withSr 0x10000#32 mem) = some (0#32, mem.mem) := by decide
theorem test_swl : after word 0xA8220000#32 mem = some 0x443322AA#32
    ∧ after word 0xA8220001#32 mem = some 0x4433AABB#32 ∧ after word 0xA8220002#32 mem = some 0x44AABBCC#32
    ∧ after word 0xA8220003#32 mem = some 0xAABBCCDD#32 := by decide
theorem test_swr : after word 0xB8220000#32 mem = some 0xAABBCCDD#32
    ∧ after word 0xB8220001#32 mem = some 0xBBCCDD11#32 ∧ after word 0xB8220002#32 mem = some 0xCCDD2211#32
    ∧ after word 0xB8220003#32 mem = some 0xDD332211#32 := by decide

/-! ## System calls and coprocessors (44_system_cop.md, section 2.7) -/

theorem test_syscall : after entry 0x0000000C#32 (withSr 1#32 base)
      = some (0x20#32, 0x80010000#32, 4#32, 0x80000080#32)
    ∧ after (·.cause) 0x03FFFFCC#32 base = some 0x20#32 := by decide
/-- In a delay slot: EPC is the branch, BD is set; with BEV the vector is the other one. -/
theorem test_break : after (fun t => (t.cause, t.epc, t.nextPc)) 0x0000000D#32
      { withSr 0x400000#32 base with inDelaySlot := true } = some (0x80000024#32, 0x8000FFFC#32, 0xBFC00180#32) := by
  decide
theorem test_mfc0 : after (·.x 2#5) 0x40026000#32 (withSr 0x10000002#32 base) = some 0x10000002#32
    ∧ after (·.cause) 0x40026000#32 (withSr 2#32 base) = some 0x2C#32 := by decide
theorem test_cfc0 : after (·.x 2#5) 0x40427800#32 base = some 2#32 := by decide
theorem test_mtc0 : after (·.sr) 0x40816000#32 (two 0x401#32 0#32) = some 0x401#32
    ∧ after (·.cp0Reg 15#5) 0x40817800#32 (two 0x1234#32 0#32) = some 0x1234#32 := by decide
theorem test_ctc0 : after (·.cp0Reg 3#5) 0x40C11800#32 (two 0x1234#32 0#32) = some 0x1234#32 := by decide
theorem test_rfe : after (·.sr) 0x42000010#32 (withSr 0x2C#32 base) = some 0x2B#32
    ∧ after (·.sr) 0x42000010#32 (withSr 0x00400014#32 base) = some 0x00400015#32 := by decide
theorem test_lwc0 : after (·.sr) 0xC02C0000#32 mem = some 0x44332211#32 := by decide
theorem test_swc0 : after word 0xE02E0000#32 (mem.writeCp0 14#5 0x80012340#32) = some 0x80012340#32 := by decide
theorem test_mfc2 : after (·.cause) 0x48022800#32 base = some 0x2000002C#32
    ∧ after (·.x 2#5) 0x48022800#32 (withSr 0x40000000#32 base) = some (Config.cop2Answer 0) :=
  ⟨by decide, rfl⟩
theorem test_cfc2 : after (fun t => (t.x 2#5, t.events)) 0x4842F800#32 (withSr 0x40000000#32 base)
    = some (Config.cop2Answer 0, [.cop2ReadCtrl 31#5 (Config.cop2Answer 0)]) := rfl
theorem test_mtc2 : after (·.events) 0x48812800#32 (withSr 0x40000000#32 (two 9#32 0#32))
    = some [.cop2WriteData 5#5 9#32] := by decide
theorem test_ctc2 : after (·.events) 0x48C1F800#32 (withSr 0x40000000#32 (two 9#32 0#32))
    = some [.cop2WriteCtrl 31#5 9#32] := by decide
theorem test_cop2 : after (·.events) 0x4A180001#32 (withSr 0x40000000#32 base)
    = some [.cop2Command 0x0180001#25] := by decide
theorem test_lwc2 : after (·.events) 0xC8230000#32 (withSr 0x40000000#32 mem)
      = some [.cop2WriteData 3#5 0x44332211#32]
    ∧ after (fun t => (t.cause, t.events)) 0xC8230000#32 (withSr 0x40000000#32 (two 0x80001001#32 0#32))
      = some (0x10#32, []) := by decide
theorem test_swc2 : after (·.events) 0xE8230004#32 (withSr 0x40000000#32 base)
    = some [.cop2ReadData 3#5 (Config.cop2Answer 0)] := rfl
/-- R165 with R508 and R166 with R513: the address given to the access (log 8; R502 says the effective address). -/
theorem test_privileged_partial_word :
    [0x88220001#32, 0x98220001#32, 0xA8220001#32].map (fun w => after (·.badVAddr) w (withSr 2#32 mem))
      = List.replicate 3 (some 0x80001000#32)
    ∧ after (·.badVAddr) 0xB8220001#32 (withSr 2#32 mem) = some 0x80001001#32 := by decide
theorem test_absent_coprocessors :
    [0x44000000#32, 0xC4000000#32, 0xE4000000#32].map (fun w => after (·.cause) w (withSr 0xF0000000#32 base))
      = List.replicate 3 (some 0x1000002C#32)
    ∧ [0x4C000000#32, 0xCC000000#32, 0xEC000000#32].map (fun w => after (·.cause) w (withSr 0xF0000000#32 base))
      = List.replicate 3 (some 0x3000002C#32) := by decide
/-- The words of section 2.8 and the reserved coprocessor forms of section 2.7. -/
theorem test_reserved :
    [0x50000000#32, 0x00000001#32, 0x0000003F#32, 0x04020000#32, 0x9C000000#32, 0x40200000#32, 0x41000000#32,
     0x42000001#32].map (fun w => after (·.cause) w base) = List.replicate 8 (some 0x28#32)
    ∧ after (·.cause) 0x42000001#32 (withSr 2#32 base) = some 0x2C#32 := by decide

/-! ## The tick (60_exceptions.md, 70_reset_and_hazards.md) -/

/-- What `f` reads after a step. -/
def stepped {α : Type} (f : State → α) (s : State) : Option α :=
  match step s with
  | .next t => some (f t)
  | _ => none

theorem step_of_stepped {s : State} (h : stepped (fun _ => ()) s = some ()) : ∃ t, step s = .next t := by
  unfold stepped at h
  split at h
  · exact ⟨_, ‹_›⟩
  · cases h

/-- The first step after reset runs the bubble and fetches the first BIOS word (R733). -/
theorem test_first_tick : stepped (fun t => (t.currentPc, t.currentInstruction, t.nextInstructionPc, t.nextPc))
      { State.reset with mem := Memory.writeBytes [] 4 0x1FC00000 0x3C01FFFF#32 }
      = some (0xBFBFFFFC#32, 0#32, 0xBFC00000#32, 0xBFC00004#32)
    ∧ stepped (·.nextInstruction) { State.reset with mem := Memory.writeBytes [] 4 0x1FC00000 0x3C01FFFF#32 }
      = some 0x3C01FFFF#32 := by decide
/-- The word that stands where the next step fetches its instruction is run by that step. -/
theorem test_withFetchWord : stepped (·.x 1#5) (State.reset.withFetchWord 32 0x3C01FFFF) = some 0xFFFF0000#32 := by
  decide
theorem test_decodeTableWord : decodeTableWord 32 0x3C01FFFF = some (.lui 1#5 0xFFFF#16)
    ∧ decodeTableWord 32 0x50000000 = none := by decide
/-- A posted IRQ is taken in place of the instruction when IEc, IM[2] and I_MASK allow it (R634, R647, R746). -/
theorem test_interrupt : stepped (fun t => (t.x 1#5, t.cause, t.epc, t.nextPc))
    ({ withSr 0x401#32 base with iStat := 1#11, iMask := 1#11 }.withFetchWord 32 0x3C01FFFF)
    = some (0#32, 0x400#32, 0x80010004#32, 0x80000080#32) := by decide
/-- A misaligned jump target raises AdEL when it would execute, with its own address (R465). -/
theorem test_bad_target : stepped (fun t => (t.cause, t.epc, t.badVAddr))
    { base with nextInstructionPc := 0x80010002#32, nextInstructionFault := .adEL }
    = some (0x10#32, 0x80010002#32, 0x80010002#32) := by decide
/-- An environment action posts an IRQ, writes RAM and leaves the rest; a reset action restarts the core. -/
theorem test_environment : stepped (fun t => (t.iStat, t.mem.read 4, t.env, t.nextPc))
      { base with env := [⟨4#11, [(4#21, 7#8)], false⟩] } = some (4#11, 7#8, [], 0x8001000C#32)
    ∧ stepped (fun t => (t.iStat, t.sr, t.mem.read 4, t.nextPc))
      { base with env := [⟨4#11, [(4#21, 7#8)], true⟩] } = some (0#11, 0x00400000#32, 7#8, 0xBFC00000#32) := by decide
/-- A read of a device is recorded with the free value it answered. -/
theorem test_device_read : after (fun t => (t.xf 2#5, t.draws, t.events)) 0x8C220000#32 (two 0x1F801810#32 0#32)
    = some (Config.deviceAnswer 0 &&& fieldMask 0 32, 1,
        [.deviceRead .gpu 0x1F801810 4 (Config.deviceAnswer 0 &&& fieldMask 0 32)]) := rfl
theorem test_device_write : after (·.events) 0xA0220000#32 (two 0x1F801810#32 0x1234#32)
    = some [.deviceWrite .gpu 0x1F801810 1 0x34#32] := by decide
theorem test_interrupt_registers :
    after (·.iStat) 0xA4220000#32 { two 0x1F801070#32 0xFFFFFFFE#32 with iStat := 7#11 } = some 6#11
    ∧ after (·.iMask) 0xAC220000#32 (two 0x1F801074#32 0xFFFFFFFF#32) = some 0x7FF#11 := by decide

/-! ## WellFormed: for each check, a term it refuses -/

/-- One word for each line of 30_encoding.md R261. -/
theorem illformed_words :
    [0x50000000#32, 0x7C000000#32, 0x9C000000#32, 0xB0000000#32, 0xFC000000#32, 0x00000001#32, 0x0000003F#32,
     0x04020000#32, 0x40200000#32, 0x48200000#32, 0x42000001#32].all (fun w => !wellFormedWord w) = true := by decide
theorem wellformed_words : [0#32, 0x42000010#32, 0x4A180001#32, 0x04110000#32, 0x44000000#32].all wellFormedWord = true := by
  decide
/-- Empty, unaligned start, unaligned end, below the window, above it, and over the interrupt registers. -/
theorem illformed_claims :
    [(⟨0x1F801004, 0x1F801003, .spu⟩ : IoClaim), ⟨0x1F801002, 0x1F801007, .spu⟩, ⟨0x1F801000, 0x1F801004, .spu⟩,
     ⟨0x1F800FFC, 0x1F801003, .spu⟩, ⟨0x1F802000, 0x1F803003, .spu⟩, ⟨0x1F801074, 0x1F801083, .spu⟩].all
      (fun c => !c.wf) = true := by decide
theorem wellformed_claims : ∀ c ∈ Config.defaultIoClaims, c.wf = true := by decide
/-- Out of order, a repeated location, and a cell that holds what an unlisted location reads as. -/
theorem illformed_memory : ¬ Memory.wf [(5, 1#8), (4, 1#8)] ∧ ¬ Memory.wf [(4, 1#8), (4, 2#8)]
    ∧ ¬ Memory.wf [(4, 0#8)] := by decide
/-- Writing what an unlisted location reads as removes the cell. -/
theorem test_write_removes : (Memory.write [(4, 1#8), (6, 2#8)] 4 0#8) = [(6, 2#8)]
    ∧ Memory.write [(4, 1#8), (6, 2#8)] 5 3#8 = [(4, 1#8), (5, 3#8), (6, 2#8)] := by decide

/-! ## Witnesses: states and operands that meet the hypotheses of the obligations -/

theorem witness_EncodeOfDecodedWordClearsIgnoredBits : decode 0x00221861#32 = .instr (.addu 3#5 1#5 2#5)
    ∧ encode (.addu 3#5 1#5 2#5) ≠ 0x00221861#32 := by decide
theorem witness_DecodeRejectsExactlyReservedWords : reservedWord 0x50000000#32 = true ∧ reservedWord 0#32 = false := by
  decide
theorem witness_BytesDecodeAsLittleEndianWord : ([1#8, 2#8, 3#8] : List Byte).length < 4
    ∧ decode 0x50000000#32 = .reserved (.primary 0x14#6) := by decide
/-- The overflow condition of each of the three holds in one state and fails in another. -/
theorem witness_TrappingArithmetic :
    (((two 0x7FFFFFFF#32 1#32).x 1#5).msb = ((two 0x7FFFFFFF#32 1#32).x 2#5).msb
      ∧ ((two 0x7FFFFFFF#32 1#32).x 1#5 + (two 0x7FFFFFFF#32 1#32).x 2#5).msb ≠ ((two 0x7FFFFFFF#32 1#32).x 1#5).msb)
    ∧ (((two 0x80000000#32 1#32).x 1#5).msb ≠ ((two 0x80000000#32 1#32).x 2#5).msb
      ∧ ((two 0x80000000#32 1#32).x 1#5 - (two 0x80000000#32 1#32).x 2#5).msb ≠ ((two 0x80000000#32 1#32).x 1#5).msb)
    ∧ overflowAdd 0x7FFFFFFF#32 ((1#16).signExtend 32) = true ∧ overflowAdd 5#32 7#32 = false
    ∧ overflowSub 5#32 7#32 = false := by decide
theorem witness_OverflowIsSignedResultOutOfRange : overflowAdd 0x7FFFFFFF#32 0#32 = false
    ∧ overflowSub 0x80000000#32 0#32 = false := by decide
/-- For SignedDivision and UnsignedDivision: every case has operands. -/
theorem witness_Division : (two 5#32 0#32).x 2#5 = 0#32 ∧ 0 ≤ ((two 5#32 0#32).x 1#5).toInt
    ∧ ((two 0xFFFFFFFB#32 0#32).x 1#5).toInt < 0
    ∧ ((two 0x80000000#32 0xFFFFFFFF#32).x 1#5 = 0x80000000#32 ∧ (two 0x80000000#32 0xFFFFFFFF#32).x 2#5 = 0xFFFFFFFF#32)
    ∧ ((two 0x80000000#32 1#32).x 2#5 ≠ 0#32 ∧ (two 0x80000000#32 1#32).x 2#5 ≠ 0xFFFFFFFF#32) := by decide
/-- For BranchResults and BranchAndLinkResults: every condition holds at a boundary of its range and fails next to it. -/
theorem witness_Branches : (two 4#32 4#32).x 1#5 = (two 4#32 4#32).x 2#5 ∧ (two 4#32 5#32).x 1#5 ≠ (two 4#32 5#32).x 2#5
    ∧ ((two 0#32 0#32).x 1#5).toInt ≤ 0 ∧ 0 < ((two 1#32 0#32).x 1#5).toInt ∧ ((two 0xFFFFFFFF#32 0#32).x 1#5).toInt < 0
    ∧ 0 ≤ ((two 0#32 0#32).x 1#5).toInt := by decide
/-- Both ends of every range of the address map, through each segment, and the addresses next to them. -/
theorem witness_AddressMap :
    ([(0x00000000#32, some (.storage 0)), (0x807FFFFF#32, some (.storage 0x1FFFFF)), (0xA0200000#32, some (.storage 0)),
      (0x00800000#32, none), (0x1EFFFFFF#32, none),
      (0x1F000000#32, some (.device .exp1 0x1F000000)), (0xBF7FFFFF#32, some (.device .exp1 0x1F7FFFFF)),
      (0x9F800000#32, some (.storage 0x1F800000)), (0x1F8003FF#32, some (.storage 0x1F8003FF)),
      (0x1F800400#32, none), (0x1F800FFF#32, none),
      (0x1F801000#32, some (.device .memControl1 0x1F801000)), (0x1F801023#32, some (.device .memControl1 0x1F801023)),
      (0x1F801024#32, none), (0x1F80106F#32, none),
      (0x1F801070#32, some (.interrupts 0)), (0xBF801077#32, some (.interrupts 7)), (0x1F801078#32, none),
      (0x1F802FFF#32, some (.device .exp2 0x1F802FFF)), (0x1F803000#32, none), (0x1FBFFFFF#32, none),
      (0xBFC00000#32, some (.rom 0x1FC00000)), (0x9FC7FFFF#32, some (.rom 0x1FC7FFFF)), (0x1FC80000#32, none),
      (0x20000000#32, none), (0x7FFFFFFF#32, none), (0x9FFFFFFF#32, none), (0xBFFFFFFF#32, none),
      (0xC0000000#32, none), (0xFFFDFFFF#32, none), (0xFFFE0000#32, some (.storage 0xFFFE0000)),
      (0xFFFE01FF#32, some (.storage 0xFFFE01FF)), (0xFFFE0200#32, none), (0xFFFFFFFF#32, none)]
      : List (Word × Option Target)).all (fun q => route Config.defaultIoClaims q.1 == q.2) = true := by decide
/-- A claim that holds the offset, and an offset no claim holds. -/
theorem witness_AddressMap_claims :
    (∃ c ∈ Config.defaultIoClaims, c.first ≤ 0x1F801810 ∧ 0x1F801810 ≤ c.last)
    ∧ ∀ c ∈ Config.defaultIoClaims, ¬ (c.first ≤ 0x1F801024 ∧ 0x1F801024 ≤ c.last) := by decide
theorem witness_OneRoutingDecisionServesAllBytes : (∀ c ∈ Config.defaultIoClaims, c.wf = true)
    ∧ (0x807FFFFC#32 : Word).toNat % Width.word.bytes = 0 ∧ 3 < Width.word.bytes := by decide
/-- The ranges of the byte and bit numbers at their ends: bits 10 and 11 of the registers fall in byte 1. -/
theorem witness_InterruptRegisterAccess :
    let s : State := { base with iStat := 0x7FF#11, iMask := 0x400#11 }
    interruptByte s 0 = 0xFF#8 ∧ interruptByte s 1 = 0x07#8 ∧ interruptByte s 3 = 0#8
      ∧ interruptByte s 5 = 0x04#8 ∧ interruptByte s 7 = 0#8
      ∧ (writeInterruptByte s 1 0x03#8).iStat = 0x3FF#11 ∧ (writeInterruptByte s 7 0xFF#8).iMask = 0x400#11 := by decide
theorem witness_BusWrites : mem.mem.wf ∧ State.reset.mem.wf := by decide
/-- A load of each width that reaches the bus, on every kind of target. -/
theorem witness_LoadResults :
    Reaches mem (mem.x 1#5 + (7#16).signExtend 32) .byte (.storage 0x1007)
    ∧ Reaches mem (mem.x 1#5 + (6#16).signExtend 32) .half (.storage 0x1006)
    ∧ Reaches mem (mem.x 1#5 + (0xFFFC#16).signExtend 32) .word (.storage 0x0FFC)
    ∧ Reaches (two 0xBFC00000#32 0#32) ((two 0xBFC00000#32 0#32).x 1#5 + (0#16).signExtend 32) .word (.rom 0x1FC00000)
    ∧ Reaches (two 0x1F801070#32 0#32) ((two 0x1F801070#32 0#32).x 1#5 + (4#16).signExtend 32) .word (.interrupts 4)
    ∧ Reaches (two 0x1F801810#32 0#32) ((two 0x1F801810#32 0#32).x 1#5 + (4#16).signExtend 32) .word
        (.device .gpu 0x1F801814) := by decide
theorem witness_UnalignedLoadResults :
    Reaches mem ((mem.x 1#5 + (3#16).signExtend 32) &&& 0xFFFFFFFC#32) .word (.storage 0x1000) := by decide
/-- The three ways an access does not reach the bus: misaligned or forbidden to user mode, isolated, unmapped. -/
theorem witness_LoadFaultsAndIsolation :
    ¬ Permitted mem (mem.x 1#5 + (1#16).signExtend 32) .half
    ∧ ¬ Permitted mem (mem.x 1#5 + (2#16).signExtend 32) .word
    ∧ ¬ Permitted (withSr 2#32 mem) (mem.x 1#5 + (0#16).signExtend 32) .byte
    ∧ ¬ Permitted (withSr 2#32 mem) ((mem.x 1#5 + (1#16).signExtend 32) &&& 0xFFFFFFFC#32) .word
    ∧ (Permitted (withSr 0x10000#32 mem) (mem.x 1#5 + (0#16).signExtend 32) .word
        ∧ srIsC (withSr 0x10000#32 mem).sr = true)
    ∧ (Permitted (two 0x80800000#32 0#32) ((two 0x80800000#32 0#32).x 1#5 + (0#16).signExtend 32) .word
        ∧ srIsC (two 0x80800000#32 0#32).sr = false
        ∧ route (two 0x80800000#32 0#32).ioClaims ((two 0x80800000#32 0#32).x 1#5 + (0#16).signExtend 32) = none) := by
  decide
theorem witness_StoreResults : mem.mem.wf ∧ Reaches mem (mem.x 1#5 + (1#16).signExtend 32) .byte (.storage 0x1001)
    ∧ Reaches mem (mem.x 1#5 + (2#16).signExtend 32) .half (.storage 0x1002)
    ∧ Reaches mem (mem.x 1#5 + (0#16).signExtend 32) .word (.storage 0x1000) := by decide
/-- Every kind of target, at the least and the greatest byte offset. -/
theorem witness_UnalignedStoreResults :
    (mem.mem.wf ∧ (∀ c ∈ mem.ioClaims, c.wf = true)
      ∧ Reaches mem ((mem.x 1#5 + (3#16).signExtend 32) &&& 0xFFFFFFFC#32) .word (.storage 0x1000))
    ∧ Reaches mem ((0xBFC00000#32 : Word) &&& 0xFFFFFFFC#32) .word (.rom 0x1FC00000)
    ∧ Reaches mem ((0x1F801077#32 : Word) &&& 0xFFFFFFFC#32) .word (.interrupts 4)
    ∧ Reaches mem ((0x1F801810#32 : Word) &&& 0xFFFFFFFC#32) .word (.device .gpu 0x1F801810) := by decide
theorem witness_StoreFaultsAndIsolation : (∀ c ∈ mem.ioClaims, c.wf = true)
    ∧ ¬ Permitted mem (mem.x 1#5 + (1#16).signExtend 32) .half
    ∧ ¬ Permitted (withSr 2#32 mem) ((mem.x 1#5 + (3#16).signExtend 32) &&& 0xFFFFFFFC#32) .word
    ∧ (Permitted (withSr 0x10000#32 mem) ((mem.x 1#5 + (3#16).signExtend 32) &&& 0xFFFFFFFC#32) .word
        ∧ srIsC (withSr 0x10000#32 mem).sr = true)
    ∧ (Permitted mem ((0x80800003#32 : Word) &&& 0xFFFFFFFC#32) .word ∧ srIsC mem.sr = false
        ∧ route mem.ioClaims ((0x80800003#32 : Word) &&& 0xFFFFFFFC#32) = none) := by decide
/-- A load, then in its delay slot nothing, an immediate write, or a second load. -/
theorem witness_LoadDelayVisibility : (2#5 : RegIdx) ≠ 0#5 ∧ GprLoaded 2#5 9#32 mem (mem.writeDelayed 2#5 9#32)
    ∧ GprsSameBut (fun q => q ≠ 2#5) (endTick (mem.writeDelayed 2#5 9#32)) (endTick (mem.writeDelayed 2#5 9#32))
    ∧ GprWritten 2#5 8#32 (endTick mem) ((endTick mem).writeReg 2#5 8#32)
    ∧ GprLoaded 2#5 8#32 (endTick mem) ((endTick mem).writeDelayed 2#5 8#32) :=
  ⟨by decide, gprLoaded_writeDelayed _ _ _, fun _ _ => ⟨rfl, rfl, rfl⟩, gprWritten_writeReg _ _ _,
    gprLoaded_writeDelayed _ _ _⟩
/-- An unaligned word over two aligned ones, and an aligned one. -/
theorem witness_UnalignedWordIdiom : (2#5 : RegIdx) ≠ 0#5 ∧ (endTick mem).x 1#5 = mem.x 1#5
    ∧ (mem.x 1#5 + (1#16).signExtend 32 = 0x80001001#32 ∧ mem.x 1#5 + (4#16).signExtend 32 = 0x80001001#32 + 3#32
      ∧ Reaches mem (0x80001001#32 &&& 0xFFFFFFFC#32) .word (.storage 0x1000)
      ∧ Reaches mem ((0x80001001#32 + 3#32) &&& 0xFFFFFFFC#32) .word (.storage 0x1004))
    ∧ (mem.x 1#5 + (0#16).signExtend 32 = 0x80001000#32 ∧ mem.x 1#5 + (3#16).signExtend 32 = 0x80001000#32 + 3#32
      ∧ Reaches mem ((0x80001000#32 + 3#32) &&& 0xFFFFFFFC#32) .word (.storage 0x1000)) := by decide
/-- For Cop0Moves, ReturnFromException and Cop2MovesAndCommand: coprocessor 0 may be used in kernel mode and in user
mode with CU0; coprocessor 2 with CU2. -/
theorem witness_usable : Cop0Usable base ∧ Cop0Usable (withSr 0x10000002#32 base)
    ∧ srCu2 (withSr 0x40000000#32 base).sr = true := by decide
theorem witness_Cop0LoadStore : Cop0Usable mem ∧ mem.mem.wf
    ∧ Reaches mem (mem.x 1#5 + (0#16).signExtend 32) .word (.storage 0x1000) := by decide
theorem witness_Cop2LoadStore : srCu2 (withSr 0x40000000#32 mem).sr = true ∧ mem.mem.wf
    ∧ Reaches (withSr 0x40000000#32 mem) (mem.x 1#5 + (4#16).signExtend 32) .word (.storage 0x1004) := by decide
theorem witness_CopLoadStoreFaultsAndIsolation : srCu2 (withSr 0x40000000#32 mem).sr = true
    ∧ Cop0Usable (withSr 0x40000000#32 mem)
    ∧ ¬ Permitted (withSr 0x40000000#32 mem) (mem.x 1#5 + (1#16).signExtend 32) .word
    ∧ (Permitted (withSr 0x40010000#32 mem) (mem.x 1#5 + (0#16).signExtend 32) .word
        ∧ srIsC (withSr 0x40010000#32 mem).sr = true ∧ srCu2 (withSr 0x40010000#32 mem).sr = true)
    ∧ (Permitted (withSr 0x40000000#32 mem) (0x80800000#32 + (0#16).signExtend 32) .word
        ∧ srIsC (withSr 0x40000000#32 mem).sr = false
        ∧ route mem.ioClaims (0x80800000#32 + (0#16).signExtend 32) = none) := by decide
/-- A word of each opcode of each clause; the second and third are reserved words. -/
theorem witness_CoprocessorUnusable :
    (¬ Cop0Usable (withSr 2#32 base)) ∧ srCu2 base.sr = false
    ∧ [0x40026000#32, 0x42000001#32, 0x41000000#32, 0xC0000000#32, 0xE0000000#32].all
        (fun w => [0x10#6, 0x30#6, 0x38#6].contains (w.extractLsb' 26 6)) = true
    ∧ [0x48022800#32, 0x48200000#32, 0x4A000000#32, 0xC8000000#32, 0xE8000000#32].all
        (fun w => [0x12#6, 0x32#6, 0x3A#6].contains (w.extractLsb' 26 6)) = true
    ∧ [0x44000000#32, 0xC4000000#32, 0xE4000000#32].all
        (fun w => [0x11#6, 0x31#6, 0x39#6].contains (w.extractLsb' 26 6)) = true
    ∧ [0x4C000000#32, 0xCC000000#32, 0xEC000000#32].all
        (fun w => [0x13#6, 0x33#6, 0x3B#6].contains (w.extractLsb' 26 6)) = true := by decide
/-- A reserved word outside the coprocessors, of COP0 where it is usable, and of COP2 where it is. -/
theorem witness_ReservedWordsRaiseRi : (reservedWord 0x50000000#32 = true)
    ∧ (reservedWord 0x42000001#32 = true ∧ Cop0Usable base)
    ∧ (reservedWord 0x48200000#32 = true ∧ srCu2 (withSr 0x40000000#32 base).sr = true) := by decide
theorem witness_FetchResults : ¬ Permitted base 0x80010002#32 .word ∧ ¬ Permitted (withSr 2#32 base) 0x80010000#32 .word
    ∧ (Permitted base 0x80800000#32 .word ∧ route base.ioClaims 0x80800000#32 = none)
    ∧ (Permitted base 0x80010000#32 .word ∧ route base.ioClaims 0x80010000#32 = some (.storage 0x10000)) := by decide

/-- Interrupts enabled with one posted and unmasked. -/
def posted : State := { withSr 0x401#32 base with iStat := 1#11, iMask := 1#11 }

/-- The hardware line, and a software interrupt at each end of Cause.IP. -/
theorem witness_InterruptReplacesInstruction :
    ((beginTick posted).sr.getLsbD 0 = true ∧ (beginTick posted).cause.getLsbD 10 = true
      ∧ (beginTick posted).sr.getLsbD 10 = true)
    ∧ ((beginTick ((withSr 0x101#32 base).writeCp0 13#5 0x100#32)).cause.getLsbD 8 = true
      ∧ (beginTick ((withSr 0x101#32 base).writeCp0 13#5 0x100#32)).sr.getLsbD 8 = true)
    ∧ ((beginTick ((withSr 0x8001#32 base).writeCp0 13#5 0x8000#32)).cause.getLsbD 15 = true
      ∧ (beginTick ((withSr 0x8001#32 base).writeCp0 13#5 0x8000#32)).sr.getLsbD 15 = true) := by decide
/-- Interrupts disabled, and enabled with none pending. -/
theorem witness_FetchFaultReplacesInstruction : (beginTick base).sr.getLsbD 0 = false
    ∧ ((beginTick (withSr 0xFF01#32 base)).sr.getLsbD 0 = true
      ∧ ∀ i : Fin 16, 8 ≤ i.val → (beginTick (withSr 0xFF01#32 base)).cause.getLsbD i = false)
    ∧ ({ base with nextInstructionFault := .adEL } : State).nextInstructionFault = .adEL
    ∧ (beginTick { base with nextInstructionFault := .ibe }).currentFault = .ibe := by decide
theorem witness_StepRunsDecodedInstruction : (beginTick (base.withFetchWord 32 0x3C01FFFF)).sr.getLsbD 0 = false
    ∧ (base.withFetchWord 32 0x3C01FFFF).nextInstructionFault = .none
    ∧ decode (base.withFetchWord 32 0x3C01FFFF).nextInstruction = .instr (.lui 1#5 0xFFFF#16)
    ∧ reservedWord (base.withFetchWord 32 0x42000001).nextInstruction = true
    ∧ Cop0Usable (beginTick (base.withFetchWord 32 0x42000001))
    ∧ reservedWord ((withSr 0x40000000#32 base).withFetchWord 32 0x48200000).nextInstruction = true
    ∧ srCu2 (beginTick ((withSr 0x40000000#32 base).withFetchWord 32 0x48200000)).sr = true := by decide
theorem witness_TickEnds : base.env = [] := by decide
/-- An action that posts and writes the same byte twice; the last write wins. -/
theorem witness_EnvironmentStep :
    ({ base with env := [⟨4#11, [(4#21, 7#8), (4#21, 9#8)], false⟩] } : State).env
      = ⟨4#11, [(4#21, 7#8), (4#21, 9#8)], false⟩ :: []
    ∧ base.mem.wf ∧ (∀ c ∈ ([(4#21, 7#8), (4#21, 9#8)] : List (BitVec 21 × Byte)), c.1.toNat ≠ 5)
    ∧ ([(4#21, 7#8), (4#21, 9#8)] : List (BitVec 21 × Byte)) = [(4#21, 7#8)] ++ (4#21, 9#8) :: []
    ∧ (envStep { base with env := [⟨4#11, [(4#21, 7#8), (4#21, 9#8)], false⟩] }).mem.read 4 = 9#8 :=
  ⟨rfl, by decide, by simp, rfl, by decide⟩
/-- The ends of every range of storage, inside the cache-control window and outside it. -/
theorem witness_ResetEvent : [0, 0x1FFFFF, 0x1F800000, 0x1F8003FF, 0x1FC00000, 0x1FC7FFFF].all
      (fun l => isStorage l && !isCacheControl l) = true
    ∧ [0xFFFE0000, 0xFFFE01FF].all (fun l => isStorage l && isCacheControl l) = true
    ∧ [0x200000, 0x1F7FFFFF, 0x1F800400, 0x1FBFFFFF, 0x1FC80000, 0xFFFDFFFF, 0xFFFE0200].all
      (fun l => !isStorage l) = true := by decide
/-- Right after reset, and with values in registers R731 leaves unspecified and an action that posts an IRQ. -/
theorem witness_FirstTickAfterReset : ResetRegisters State.reset
    ∧ ResetRegisters { State.reset.writeCp0 13#5 0xFFFFFFFF#32 with hi := 7#32, env := [⟨1#11, [(4#21, 9#8)], false⟩] }
    ∧ ∀ a rest, ([⟨1#11, [(4#21, 9#8)], false⟩] : List EnvAction) = a :: rest → a.reset = false :=
  ⟨by decide, by decide, by rintro a rest h; cases h; rfl⟩
/-- A state that meets the invariant and stores a byte in its step. -/
theorem witness_StepKeepsInvariant : (mem.withFetchWord 32 0xA0220001).Inv
    ∧ ∃ t, step (mem.withFetchWord 32 0xA0220001) = .next t := ⟨by decide, _, rfl⟩
/-- A state with a taken jump to a misaligned target and a latched fetch fault meets it too. -/
theorem witness_StepKeepsInvariant_fault : ({ base with
      nextInstructionPc := 0x80010002#32, nextInstructionFault := .adEL, branchTaken := true } : State).Inv := by decide
theorem witness_BiosNeverChanges : isBios 0x1FC00000 = true ∧ isBios 0x1FC7FFFF = true
    ∧ ∃ t, step ((regs [(1#5, 0xBFC00000#32)] mem).withFetchWord 32 0xAC220000) = .next t :=
  ⟨by decide, by decide, step_of_stepped (by decide)⟩
/-- RFE and a write of SR that change the mode; a tick's middle; an action without and with a reset in user mode. -/
theorem witness_ModeChangesOnlyByListedEvents :
    (∃ t, exec .rfe (withSr 0x8#32 base) = .next t ∧ t.userMode ≠ (withSr 0x8#32 base).userMode)
    ∧ (∃ t, exec (.mtc0 1#5 12#5) (two 2#32 0#32) = .next t ∧ t.userMode ≠ (two 2#32 0#32).userMode)
    ∧ (∃ t, selectAndExecute (withSr 2#32 base) = .next t)
    ∧ (withSr 2#32 base).userMode = true
    ∧ (envStep { withSr 2#32 base with env := [⟨1#11, [], false⟩] }).userMode = true
    ∧ (envStep { withSr 2#32 base with env := [⟨1#11, [], true⟩] }).userMode = false :=
  ⟨⟨_, rfl, by decide⟩, ⟨_, rfl, by decide⟩, ⟨_, rfl⟩, by decide, by decide, by decide⟩
/-- For UserModeKeepsCp0 and UserModeKeepsCacheControl. -/
theorem witness_UserMode : srKUc (withSr 2#32 mem).sr = true ∧ srCu0 (withSr 2#32 mem).sr = false
    ∧ isCacheControl 0xFFFE0000 = true ∧ isCacheControl 0xFFFE01FF = true
    ∧ (∃ t, exec (.addu 3#5 1#5 2#5) (withSr 2#32 mem) = .next t)
    ∧ ∃ t, exec (.sb 2#5 0#5 0x100#16) (withSr 2#32 mem) = .next t :=
  ⟨by decide, by decide, by decide, by decide, ⟨_, rfl⟩, ⟨_, rfl⟩⟩
theorem witness_RegisterZeroIsNeverWritten : ∃ t, exec (.lw 0#5 1#5 0#16) mem = .next t := ⟨_, rfl⟩
/-- In a state no run reaches, with slot 0 written, register 0 still reads as 0. -/
theorem test_register_zero : ({ mem with s1 := setSlot mem.s1 0#5 7#32, s3 := setSlot mem.s3 0#5 7#32 } : State).x 0#5 = 0#32
    := by decide

end Sys2Proof.Tests
end

/-! Register 0 (10_state.md R54). An instruction changes the state in one of the ways of `Change`; those that write a
general register go through `setStage`, which discards a write to register 0, and a bus write leaves the registers. -/

namespace Sys2Proof.Machine

/-- What is stored, and what a device is sent, is outside the register file (20_memory.md R164). -/
theorem sameGprs_busWrite (tgt : Target) (w : Width) (v : Word) (s : State) : SameGprs s (busWrite tgt w v s) := by
  rcases busWrite_cases tgt w v s with ⟨loc, -, h⟩ | h | ⟨a, b, h⟩ | ⟨e, h⟩ <;> rw [h] <;> exact ⟨rfl, rfl, rfl⟩

/-- The byte writes of SWL and SWR, one bus write after another (43_loadstore.md R513, R514). -/
theorem sameGprs_storeBytes {ea : Word} {bytes : List (Word × Byte)} {s t : State}
    (h : storeBytes ea bytes s = .ok t) : SameGprs s t := by
  refine storeBytes_induct (SameGprs s) ea (fun u addr b tgt hu _ => ?_) bytes s t ⟨rfl, rfl, rfl⟩ h
  obtain ⟨h1, h2, h3⟩ := sameGprs_busWrite tgt .byte (b.setWidth 32) u
  obtain ⟨hu1, hu2, hu3⟩ := hu
  exact ⟨h1.trans hu1, h2.trans hu2, h3.trans hu3⟩

/-- Slot 0 of each stage is as it was. -/
def SameSlotZero (s t : State) : Prop :=
  slot t.s1 0#5 = slot s.s1 0#5 ∧ slot t.s2 0#5 = slot s.s2 0#5 ∧ slot t.s3 0#5 = slot s.s3 0#5

theorem SameGprs.sameSlotZero {s t : State} (h : SameGprs s t) : SameSlotZero s t := by
  obtain ⟨h1, h2, h3⟩ := h
  exact ⟨by rw [h1], by rw [h2], by rw [h3]⟩

/-- An immediate write, to any register (10_state.md R53, R54). -/
theorem sameSlotZero_writeReg (s : State) (r : RegIdx) (v : Word) : SameSlotZero s (s.writeReg r v) :=
  ⟨slot_setStage_zero s.s1 r v, slot_setStage_zero s.s2 r v, slot_setStage_zero s.s3 r v⟩

/-- A delayed-load write, to any register (10_state.md R53, R54). -/
theorem sameSlotZero_writeDelayed (s : State) (r : RegIdx) (v : Word) : SameSlotZero s (s.writeDelayed r v) :=
  ⟨slot_setStage_zero s.s1 r v, rfl, rfl⟩

/-- No way in which an instruction can leave the state writes slot 0. -/
theorem Change.sameSlotZero {i : Instr} {s t : State} (h : Change i s t) : SameSlotZero s t := by
  cases h with
  | agents e d => exact ⟨rfl, rfl, rfl⟩
  | entered e => exact ⟨rfl, rfl, rfl⟩
  | wroteReg e d r v => exact sameSlotZero_writeReg { s with events := e, draws := d } r v
  | wroteHiLo hi lo => exact ⟨rfl, rfl, rfl⟩
  | transferred v => exact ⟨rfl, rfl, rfl⟩
  | linked r v => exact sameSlotZero_writeReg s r s.nextPc
  | loaded e d r v => exact sameSlotZero_writeDelayed { s with events := e, draws := d } r v
  | stored e d addr w tgt v _ =>
    exact (sameGprs_busWrite tgt w v { s with events := e, draws := d }).sameSlotZero
  | storedBytes ea bytes _ hb => exact (sameGprs_storeBytes hb).sameSlotZero
  | wroteCp0 e d n v _ _ => exact ⟨rfl, rfl, rfl⟩

/-- Settles O60: both reads give 0 by definition, and every instruction makes a `Change`, none of which writes slot 0. -/
theorem registerZeroIsNeverWritten : Obligations.RegisterZeroIsNeverWritten := by
  unfold Obligations.RegisterZeroIsNeverWritten
  exact ⟨fun s => ⟨x_zero s, xf_zero s⟩, fun i s t h => (exec_change i s t h).sameSlotZero⟩

end Sys2Proof.Machine

/-! I_STAT and I_MASK on the bus (20_memory.md R159, R160). The two registers are eight bytes; a byte write to either is
told bit by bit, and a write of several bytes, by induction on their number, from the byte writes. -/

namespace Sys2Proof.Machine

/-- Bytes 0 to 3 are those of I_STAT, zero-extended (R159). -/
theorem interruptByte_iStat (s : State) {k : Nat} (hk : k < 4) :
    interruptByte s k = byteOf (s.iStat.setWidth 32) k := by
  rw [interruptByte, if_pos hk, byteOf_eq_shift]

/-- The bytes from 4 up are those of I_MASK, zero-extended (R160). -/
theorem interruptByte_iMask (s : State) (k : Nat) :
    interruptByte s (4 + k) = byteOf (s.iMask.setWidth 32) k := by
  rw [interruptByte, if_neg (by omega), Nat.add_sub_cancel_left, byteOf_eq_shift]

/-- A bit of a byte of an interrupt register: 0 above bit 10. -/
theorem getLsbD_byteOf_interruptRegister (r : BitVec 11) {k i : Nat} (hk : k < 4) (hi : i < 8) :
    (byteOf (r.setWidth 32) k).getLsbD i = (decide (8 * k + i < 11) && r.getLsbD (8 * k + i)) := by
  rw [getLsbD_byteOf, BitVec.getLsbD_setWidth, decide_eq_true hi, decide_eq_true (show 8 * k + i < 32 by omega),
    Bool.true_and, Bool.true_and]
  by_cases h : 8 * k + i < 11
  · simp [h]
  · simp [h, BitVec.getLsbD_of_ge r _ (Nat.le_of_not_lt h)]

/-- A byte write to I_STAT clears the status bits of that byte where `b` has a 0 (R159). -/
theorem writeInterruptByte_iStat (s : State) {k : Nat} (b : Byte) (hk : k < 4) :
    ∃ st, writeInterruptByte s k b = { s with iStat := st }
      ∧ ∀ i, i < 11 → st.getLsbD i
          = (s.iStat.getLsbD i && (decide (i < 8 * k ∨ 8 * k + 8 ≤ i) || b.getLsbD (i - 8 * k))) := by
  refine ⟨_, by rw [writeInterruptByte, if_pos hk], fun i hi => ?_⟩
  have h32 : i < 32 := by omega
  simp only [BitVec.getLsbD_setWidth, BitVec.getLsbD_and, BitVec.getLsbD_not, BitVec.getLsbD_shiftLeft, hi, h32,
    decide_true, Bool.true_and]
  rcases show i < 8 * k ∨ 8 * k + 8 ≤ i ∨ (8 * k ≤ i ∧ i < 8 * k + 8) by omega with below | above | ⟨low, high⟩
  · simp [below]
  · simp [above, show ¬ i - 8 * k < 8 by omega]
  · simp [show ¬ i < 8 * k by omega, show ¬ 8 * k + 8 ≤ i by omega, show i - 8 * k < 8 by omega,
      show i - 8 * k < 32 by omega]

/-- A byte write to I_MASK replaces the bits of that byte (R160). -/
theorem writeInterruptByte_iMask (s : State) {k : Nat} (b : Byte) (hk : k < 4) :
    ∃ st, writeInterruptByte s (4 + k) b = { s with iMask := st }
      ∧ ∀ i, i < 11 → st.getLsbD i
          = if i < 8 * k ∨ 8 * k + 8 ≤ i then s.iMask.getLsbD i else b.getLsbD (i - 8 * k) := by
  refine ⟨_, by rw [writeInterruptByte, if_neg (by omega), Nat.add_sub_cancel_left], fun i hi => ?_⟩
  rw [BitVec.getLsbD_setWidth, getLsbD_setField _ _ _ _ (by omega), BitVec.getLsbD_setWidth,
    decide_eq_true hi, decide_eq_true (show i < 32 by omega), Bool.true_and, Bool.true_and]
  by_cases h : i < 8 * k ∨ 8 * k + 8 ≤ i
  · rw [if_pos h, if_neg (by omega)]
  · rw [if_neg h, if_pos (by omega)]

/-- `n` bytes of `v` written to I_STAT from byte `k` up clear the bits of those bytes where `v` has a 0. -/
theorem writeInterruptBytes_iStat (s : State) (n k : Nat) (v : Word) (h : k + n ≤ 4) :
    ∃ st, writeInterruptBytes s n k v = { s with iStat := st }
      ∧ ∀ i, i < 11 → st.getLsbD i
          = (s.iStat.getLsbD i && (decide (i < 8 * k ∨ 8 * (k + n) ≤ i) || v.getLsbD (i - 8 * k))) := by
  induction n generalizing s k v with
  | zero =>
    refine ⟨s.iStat, rfl, fun i _ => ?_⟩
    rw [decide_eq_true (show i < 8 * k ∨ 8 * (k + 0) ≤ i by omega), Bool.true_or, Bool.and_true]
  | succ n ih =>
    obtain ⟨first, hfirst, bits⟩ := writeInterruptByte_iStat s (v.setWidth 8) (show k < 4 by omega)
    obtain ⟨st, hst, bits'⟩ := ih { s with iStat := first } (k + 1) (v >>> 8) (by omega)
    refine ⟨st, by rw [writeInterruptBytes, hfirst, hst], fun i hi => ?_⟩
    rw [bits' i hi, bits i hi, BitVec.getLsbD_ushiftRight, BitVec.getLsbD_setWidth]
    rcases show i < 8 * k ∨ (8 * k ≤ i ∧ i < 8 * k + 8) ∨ 8 * (k + 1) ≤ i by omega with below | ⟨low, high⟩ | above
    · simp [below, show i < 8 * (k + 1) by omega]
    · simp [show i < 8 * (k + 1) by omega, show i - 8 * k < 8 by omega, show ¬ i < 8 * k by omega,
        show ¬ 8 * k + 8 ≤ i by omega, show ¬ 8 * (k + (n + 1)) ≤ i by omega]
    · simp [show ¬ i < 8 * k by omega, show ¬ i < 8 * (k + 1) by omega, show 8 * k + 8 ≤ i by omega,
        show 8 + (i - 8 * (k + 1)) = i - 8 * k by omega, show k + 1 + n = k + (n + 1) by omega]

/-- `n` bytes of `v` written to I_MASK from byte `k` up replace the bits of those bytes. -/
theorem writeInterruptBytes_iMask (s : State) (n k : Nat) (v : Word) (h : k + n ≤ 4) :
    ∃ st, writeInterruptBytes s n (4 + k) v = { s with iMask := st }
      ∧ ∀ i, i < 11 → st.getLsbD i
          = if i < 8 * k ∨ 8 * (k + n) ≤ i then s.iMask.getLsbD i else v.getLsbD (i - 8 * k) := by
  induction n generalizing s k v with
  | zero => exact ⟨s.iMask, rfl, fun i _ => by rw [if_pos (by omega)]⟩
  | succ n ih =>
    obtain ⟨first, hfirst, bits⟩ := writeInterruptByte_iMask s (v.setWidth 8) (show k < 4 by omega)
    obtain ⟨st, hst, bits'⟩ := ih { s with iMask := first } (k + 1) (v >>> 8) (by omega)
    refine ⟨st, by rw [writeInterruptBytes, hfirst, Nat.add_assoc, hst], fun i hi => ?_⟩
    rw [bits' i hi]
    by_cases later : 8 * (k + 1) ≤ i ∧ i < 8 * (k + 1 + n)
    · rw [if_neg (by omega), if_neg (by omega), BitVec.getLsbD_ushiftRight,
        show 8 + (i - 8 * (k + 1)) = i - 8 * k by omega]
    · rw [if_pos (by omega)]
      by_cases here : 8 * k ≤ i ∧ i < 8 * k + 8
      · rw [bits i hi, if_neg (by omega), if_neg (by omega), BitVec.getLsbD_setWidth,
          decide_eq_true (show i - 8 * k < 8 by omega), Bool.true_and]
      · rw [bits i hi, if_pos (by omega), if_pos (by omega)]

/-- A word write to I_STAT is `I_STAT & v` (R159). -/
theorem busWrite_iStat_word (v : Word) (s : State) :
    busWrite (.interrupts 0) .word v s = { s with iStat := s.iStat &&& v.setWidth 11 } := by
  obtain ⟨st, hst, bits⟩ := writeInterruptBytes_iStat s 4 0 v (by omega)
  have eq : st = s.iStat &&& v.setWidth 11 := by
    refine BitVec.eq_of_getLsbD_eq fun i hi => ?_
    rw [bits i hi, decide_eq_false (by omega), Bool.false_or, BitVec.getLsbD_and, BitVec.getLsbD_setWidth,
      decide_eq_true hi, Bool.true_and, Nat.mul_zero, Nat.sub_zero]
  exact hst.trans (by rw [eq])

/-- A word write to I_MASK is `v & 0x7FF` (R160). -/
theorem busWrite_iMask_word (v : Word) (s : State) :
    busWrite (.interrupts 4) .word v s = { s with iMask := v.setWidth 11 } := by
  obtain ⟨st, hst, bits⟩ := writeInterruptBytes_iMask s 4 0 v (by omega)
  have eq : st = v.setWidth 11 := by
    refine BitVec.eq_of_getLsbD_eq fun i hi => ?_
    rw [bits i hi, if_neg (by omega), BitVec.getLsbD_setWidth, decide_eq_true hi, Bool.true_and, Nat.mul_zero,
      Nat.sub_zero]
  exact hst.trans (by rw [eq])

/-- A byte write is the write of byte 0 of `v`, a halfword write that of bytes 0 and 1 in ascending order (R163, R164). -/
theorem busWrite_interrupts_byte_half (k : Nat) (v : Word) (s : State) :
    busWrite (.interrupts k) .byte v s = writeInterruptByte s k (byteOf v 0)
      ∧ busWrite (.interrupts k) .half v s
          = writeInterruptByte (writeInterruptByte s k (byteOf v 0)) (k + 1) (byteOf v 1) := by
  rw [← byteOf_eq_shift v 0, ← byteOf_eq_shift v 1, Nat.mul_zero, BitVec.ushiftRight_zero]
  exact ⟨rfl, rfl⟩

/-- A read of an interrupt register is composed of its bytes, little-endian (R163). -/
theorem byteOf_busRead_interrupts (k : Nat) (w : Width) (s : State) (j : Nat) :
    byteOf (busRead (.interrupts k) w s).1 j = if j < w.bytes then interruptByte s (k + j) else 0#8 := by
  have hw : w.bytes ≤ 4 := by cases w <;> decide
  rw [busRead, byteOf_composeBytes]
  exact if_congr (by omega) rfl rfl

/-- A word read of I_STAT is the register, zero-extended (R159). -/
theorem busRead_iStat_word (s : State) : (busRead (.interrupts 0) .word s).1 = s.iStat.setWidth 32 :=
  eq_of_byteOf fun j hj => by
    rw [byteOf_busRead_interrupts, if_pos (show j < Width.word.bytes from hj), Nat.zero_add, interruptByte_iStat s hj]

/-- A word read of I_MASK is the register, zero-extended (R160). -/
theorem busRead_iMask_word (s : State) : (busRead (.interrupts 4) .word s).1 = s.iMask.setWidth 32 :=
  eq_of_byteOf fun j hj => by
    rw [byteOf_busRead_interrupts, if_pos (show j < Width.word.bytes from hj), interruptByte_iMask]

/-- Settles O22, from the bits of the byte accesses and, for words, the induction over the bytes written. -/
theorem interruptRegisterAccess : Obligations.InterruptRegisterAccess := by
  unfold Obligations.InterruptRegisterAccess
  intro s v b
  refine ⟨fun k i hk hi => ⟨?_, ?_⟩, fun k hk => writeInterruptByte_iStat s b hk,
    fun k hk => writeInterruptByte_iMask s b hk, fun k => busWrite_interrupts_byte_half k v s, busRead_iStat_word s,
    busRead_iMask_word s, busWrite_iStat_word v s, busWrite_iMask_word v s,
    fun k w => ⟨rfl, byteOf_busRead_interrupts k w s⟩⟩
  · rw [interruptByte_iStat s hk, getLsbD_byteOf_interruptRegister s.iStat hk hi]
  · rw [interruptByte_iMask, getLsbD_byteOf_interruptRegister s.iMask hk hi]

end Sys2Proof.Machine

/-! The ALU, the shifts and the immediates (40_alu.md). Each instruction writes one result or traps instead, so
`runs_writeResult` and `runs_writeOrOverflow` give the frame of all of them; what is left of a statement is its row of
the decoder and its result in the statement's words. -/

namespace Sys2Proof

/-- Every field of a register-form word (30_encoding.md R251). -/
theorem fields_rWord (op fn : BitVec 6) (rs rt rd sh : BitVec 5) :
    opcodeOf (rWord op rs rt rd sh fn) = op ∧ rsOf (rWord op rs rt rd sh fn) = rs
      ∧ rtOf (rWord op rs rt rd sh fn) = rt ∧ rdOf (rWord op rs rt rd sh fn) = rd
      ∧ shamtOf (rWord op rs rt rd sh fn) = sh ∧ functOf (rWord op rs rt rd sh fn) = fn :=
  ⟨opcodeOf_rWord .., rsOf_rWord .., rtOf_rWord .., rdOf_rWord .., shamtOf_rWord .., functOf_rWord ..⟩

/-- Every field of an immediate-form word (30_encoding.md R252). -/
theorem fields_iWord (op : BitVec 6) (rs rt : BitVec 5) (imm16 : BitVec 16) :
    opcodeOf (iWord op rs rt imm16) = op ∧ rsOf (iWord op rs rt imm16) = rs ∧ rtOf (iWord op rs rt imm16) = rt
      ∧ imm16Of (iWord op rs rt imm16) = imm16 :=
  ⟨opcodeOf_iWord .., rsOf_iWord .., rtOf_iWord .., imm16Of_iWord ..⟩

/-- A word of opcode 0 is read by the SPECIAL table (30_encoding.md R256, R257). -/
theorem decode_rWord_special (rs rt rd sh : BitVec 5) (fn : BitVec 6) :
    decode (rWord 0x00#6 rs rt rd sh fn) = decodeSpecial (rWord 0x00#6 rs rt rd sh fn) := by
  simp only [decode, opcodeOf_rWord]

end Sys2Proof

namespace Sys2Proof.Machine

/-! ### Results as numbers -/

theorem boolWord_slt (a b : Word) : boolWord (a.slt b) = if a.toInt < b.toInt then 1#32 else 0#32 := by
  simp only [boolWord, BitVec.slt, decide_eq_true_eq]

theorem boolWord_ult (a b : Word) : boolWord (a.ult b) = if a.toNat < b.toNat then 1#32 else 0#32 := by
  simp only [boolWord, BitVec.ult, decide_eq_true_eq]

theorem toInt_sext16 (v : BitVec 16) : (sext16 v).toInt = v.toInt := BitVec.toInt_signExtend_of_le (by decide)

theorem zext16_eq_append (v : BitVec 16) : zext16 v = 0#16 ++ v := BitVec.setWidth_eq_append (by decide)

theorem upperImmediate_eq_append (v : BitVec 16) : upperImmediate v = v ++ 0#16 := by
  have fits := v.isLt
  refine BitVec.eq_of_toNat_eq ?_
  rw [upperImmediate, zext16, BitVec.toNat_shiftLeft, BitVec.toNat_setWidth, BitVec.toNat_append, BitVec.toNat_zero,
    Nat.or_zero, Nat.shiftLeft_eq, Nat.shiftLeft_eq]
  omega

theorem toNat_shiftAmount (v : Word) : (shiftAmount v).toNat = v.toNat % 32 := BitVec.extractLsb'_toNat ..

theorem shiftLeft_eq_mul (v : Word) (n : BitVec 5) : shiftLeft v n = BitVec.ofNat 32 (v.toNat * 2 ^ n.toNat) := by
  rw [← Nat.shiftLeft_eq]; rfl

theorem shiftRightLogical_eq_div (v : Word) (n : BitVec 5) :
    shiftRightLogical v n = BitVec.ofNat 32 (v.toNat / 2 ^ n.toNat) := by
  refine BitVec.eq_of_toNat_eq ?_
  rw [← Nat.shiftRight_eq_div_pow, ← BitVec.toNat_ushiftRight, BitVec.ofNat_toNat, BitVec.setWidth_eq]; rfl

theorem shiftRightArith_eq_div (v : Word) (n : BitVec 5) :
    shiftRightArith v n = BitVec.ofInt 32 (v.toInt / 2 ^ n.toNat) := by
  rw [shiftRightArith, BitVec.sshiftRight, Int.shiftRight_eq_div_pow]; norm_cast

/-! ### Overflow (40_alu.md R301) -/

theorem overflowAdd_iff (a b : Word) : overflowAdd a b = true ↔ a.msb = b.msb ∧ (a + b).msb ≠ a.msb := by
  simp only [overflowAdd, Bool.and_eq_true, beq_iff_eq, bne_iff_ne]

theorem overflowSub_iff (a b : Word) : overflowSub a b = true ↔ a.msb ≠ b.msb ∧ (a - b).msb ≠ a.msb := by
  simp only [overflowSub, Bool.and_eq_true, bne_iff_ne]

/-! ### An instruction that writes one result -/

section
variable {w : Word} {i : Instr} {s : State} {r : RegIdx} {v : Word}

theorem runs_writeResult {v' : Word} (hd : decode w = .instr i) (he : exec i s = writeResult r v s) (hv : v = v') :
    Runs w i s (OnlyGprs (GprWritten r v') s) :=
  ⟨hd, s.writeReg r v, he, hv ▸ onlyGprs_writeReg s r v⟩

theorem runs_writeOrOverflow {overflow : Bool} {p : Prop} [Decidable p] (hd : decode w = .instr i)
    (he : exec i s = writeOrOverflow overflow r v s) (hp : overflow = true ↔ p) :
    if p then RunsTo w i s (enterException .ov s) else Runs w i s (OnlyGprs (GprWritten r v) s) := by
  by_cases h : p
  · rw [if_pos h]
    exact ⟨hd, he.trans (if_pos (hp.2 h))⟩
  · rw [if_neg h]
    exact runs_writeResult hd (he.trans (if_neg (mt hp.1 h))) rfl

end

/-! ### The statements -/

/-- Settles O9: a shift by `n` is a product or a quotient with `2 ^ n`, and the variable forms take `n` from the low
five bits of `rs`. -/
theorem shiftResults : Obligations.ShiftResults := by
  unfold Obligations.ShiftResults
  intro rd rs rt shamt s
  have amount := toNat_shiftAmount (s.x rs)
  refine ⟨runs_writeResult ?_ rfl (shiftLeft_eq_mul ..),
    runs_writeResult ?_ rfl (shiftRightLogical_eq_div ..),
    runs_writeResult ?_ rfl (shiftRightArith_eq_div ..),
    runs_writeResult ?_ rfl (amount ▸ shiftLeft_eq_mul ..),
    runs_writeResult ?_ rfl (amount ▸ shiftRightLogical_eq_div ..),
    runs_writeResult ?_ rfl (amount ▸ shiftRightArith_eq_div ..)⟩
  all_goals simp only [decode_rWord_special, decodeSpecial, fields_rWord]

/-- Settles O6: each result is the model's own word, the two comparisons read on the numbers of the operands. -/
theorem registerAluResults : Obligations.RegisterAluResults := by
  unfold Obligations.RegisterAluResults
  intro rd rs rt shamt s
  refine ⟨runs_writeResult ?_ rfl rfl, runs_writeResult ?_ rfl rfl, runs_writeResult ?_ rfl rfl,
    runs_writeResult ?_ rfl rfl, runs_writeResult ?_ rfl rfl, runs_writeResult ?_ rfl rfl,
    runs_writeResult ?_ rfl (boolWord_slt ..), runs_writeResult ?_ rfl (boolWord_ult ..)⟩
  all_goals simp only [decode_rWord_special, decodeSpecial, fields_rWord]

/-- Settles O7: the sign rule of R301 decides between the Ov entry and the write. -/
theorem trappingArithmetic : Obligations.TrappingArithmetic := by
  unfold Obligations.TrappingArithmetic
  intro rd rs rt shamt imm16 s
  refine ⟨runs_writeOrOverflow ?_ rfl (overflowAdd_iff ..), runs_writeOrOverflow ?_ rfl (overflowSub_iff ..),
    runs_writeOrOverflow ?_ rfl (overflowAdd_iff ..)⟩
  · simp only [decode_rWord_special, decodeSpecial, fields_rWord]
  · simp only [decode_rWord_special, decodeSpecial, fields_rWord]
  · simp only [decode, fields_iWord]

/-- Settles O10: arithmetic and comparisons sign-extend the immediate, the logical forms zero-extend it, and LUI puts
it in the upper half. -/
theorem immediateResults : Obligations.ImmediateResults := by
  unfold Obligations.ImmediateResults
  intro rt rs imm16 s
  have zext := zext16_eq_append imm16
  refine ⟨runs_writeResult ?_ rfl rfl,
    runs_writeResult ?_ rfl (toInt_sext16 imm16 ▸ boolWord_slt ..),
    runs_writeResult ?_ rfl (boolWord_ult ..),
    runs_writeResult ?_ rfl (congrArg (s.x rs &&& ·) zext),
    runs_writeResult ?_ rfl (congrArg (s.x rs ||| ·) zext),
    runs_writeResult ?_ rfl (congrArg (s.x rs ^^^ ·) zext),
    runs_writeResult ?_ rfl (upperImmediate_eq_append imm16)⟩
  all_goals simp only [decode, fields_iWord]

end Sys2Proof.Machine

/-! Products, quotients and the HI and LO moves (41_muldiv.md). Each instruction writes HI and LO once, so
`onlyHiLo_writeHiLo` is the frame of all but MFHI and MFLO; what is left of a statement is its row of the decoder and
the two words as numbers. -/

namespace Sys2Proof.Machine

/-! ### Products -/

/-- HI and LO read as one word are the product whose halves were written to them. -/
theorem halves_append (p : BitVec 64) : p.extractLsb' 32 32 ++ p.extractLsb' 0 32 = p :=
  (BitVec.extractLsb'_append_extractLsb'_eq_extractLsb' rfl).trans BitVec.extractLsb'_eq_self

/-- The product of two signed words fits in 64 bits (R401). -/
theorem toInt_signedProduct (a b : Word) : (signedProduct a b).toInt = a.toInt * b.toInt := by
  have low : -2 ^ 62 ≤ a.toInt * b.toInt := BitVec.le_toInt_mul_toInt
  have high : a.toInt * b.toInt ≤ 2 ^ 62 := BitVec.toInt_mul_toInt_le
  exact BitVec.toInt_ofInt_eq_self (by decide) (by omega) (by omega)

/-- The product of two unsigned words fits in 64 bits (R402). -/
theorem toNat_unsignedProduct (a b : Word) : (unsignedProduct a b).toNat = a.toNat * b.toNat := by
  have fits : a.toNat * b.toNat < 2 ^ 64 := BitVec.toNat_mul_toNat_lt
  exact (BitVec.toNat_ofNat ..).trans (Nat.mod_eq_of_lt fits)

/-! ### Quotients and remainders -/

/-- Division by zero keeps the dividend in HI (R403). -/
theorem signedDivide_zero (n : Word) :
    signedDivide n 0#32 = (n, if 0 ≤ n.toInt then 0xFFFFFFFF#32 else 0x00000001#32) :=
  if_pos rfl

/-- The one quotient that no signed word holds (R403). -/
theorem signedDivide_overflow : signedDivide 0x80000000#32 0xFFFFFFFF#32 = (0x00000000#32, 0x80000000#32) := rfl

/-- Outside the two special cases DIV is the library's division, which truncates toward zero: the quotient fits in a
word, and what R403 subtracts from the dividend leaves the truncated remainder. -/
theorem signedDivide_eq_srem_sdiv {n d : Word} (nonzero : d ≠ 0#32)
    (noOverflow : ¬ (n = 0x80000000#32 ∧ d = 0xFFFFFFFF#32)) : signedDivide n d = (n.srem d, n.sdiv d) := by
  have quotient : n.toInt.tdiv d.toInt = (n.sdiv d).toInt :=
    (BitVec.toInt_sdiv_of_ne_or_ne n d (not_and_or.1 noOverflow)).symm
  have remainder : n.toInt - d.toInt * (n.sdiv d).toInt = (n.srem d).toInt := by
    rw [← quotient, BitVec.toInt_srem, Int.tmod_def]
  rw [signedDivide, if_neg nonzero, if_neg noOverflow]
  simp only [quotient, remainder, BitVec.ofInt_toInt]

/-- Division by zero keeps the dividend in HI (R404). -/
theorem unsignedDivide_zero (n : Word) : unsignedDivide n 0#32 = (n, 0xFFFFFFFF#32) := if_pos rfl

/-- For any other divisor DIVU is the library's unsigned division (R404). -/
theorem unsignedDivide_eq_umod_udiv {n d : Word} (nonzero : d ≠ 0#32) : unsignedDivide n d = (n % d, n / d) := by
  rw [unsignedDivide, if_neg nonzero, ← BitVec.toNat_umod, ← BitVec.toNat_udiv, BitVec.ofNat_toNat, BitVec.ofNat_toNat,
    BitVec.setWidth_eq, BitVec.setWidth_eq]

/-! ### The statements -/

/-- Settles O11: both products fit in 64 bits, so their halves put together are the exact product. -/
theorem productsFillHiLo : Obligations.ProductsFillHiLo := by
  unfold Obligations.ProductsFillHiLo
  intro rs rt rd shamt s
  refine ⟨⟨?_, _, rfl, ?_, onlyHiLo_writeHiLo ..⟩, ⟨?_, _, rfl, ?_, onlyHiLo_writeHiLo ..⟩⟩
  · simp only [decode_rWord_special, decodeSpecial, fields_rWord]
  · rw [writeHiLo_hi, writeHiLo_lo, halves_append, toInt_signedProduct]
  · simp only [decode_rWord_special, decodeSpecial, fields_rWord]
  · rw [writeHiLo_hi, writeHiLo_lo, halves_append, toNat_unsignedProduct]

/-- Settles O12: the three cases of R403. -/
theorem signedDivision : Obligations.SignedDivision := by
  unfold Obligations.SignedDivision
  intro rs rt rd shamt s
  refine ⟨?_, _, rfl, onlyHiLo_writeHiLo .., ?_⟩
  · simp only [decode_rWord_special, decodeSpecial, fields_rWord]
  rw [writeHiLo_hi, writeHiLo_lo]
  by_cases zero : s.x rt = 0#32
  · rw [if_pos zero, zero, signedDivide_zero]
    exact ⟨rfl, rfl⟩
  · rw [if_neg zero]
    by_cases overflow : s.x rs = 0x80000000#32 ∧ s.x rt = 0xFFFFFFFF#32
    · rw [if_pos overflow, overflow.1, overflow.2, signedDivide_overflow]
      exact ⟨rfl, rfl⟩
    · rw [if_neg overflow, signedDivide_eq_srem_sdiv zero overflow]
      exact ⟨BitVec.toInt_sdiv_of_ne_or_ne _ _ (not_and_or.1 overflow), BitVec.toInt_srem ..⟩

/-- Settles O13: the two cases of R404. -/
theorem unsignedDivision : Obligations.UnsignedDivision := by
  unfold Obligations.UnsignedDivision
  intro rs rt rd shamt s
  refine ⟨?_, _, rfl, onlyHiLo_writeHiLo .., ?_⟩
  · simp only [decode_rWord_special, decodeSpecial, fields_rWord]
  rw [writeHiLo_hi, writeHiLo_lo]
  by_cases zero : s.x rt = 0#32
  · rw [if_pos zero, zero, unsignedDivide_zero]
    exact ⟨rfl, rfl⟩
  · rw [if_neg zero, unsignedDivide_eq_umod_udiv zero]
    exact ⟨BitVec.toNat_udiv, BitVec.toNat_umod⟩

/-- Settles O14: the moves from HI and LO write one general register, the moves to them write HI and LO with the other
of the two as it was. -/
theorem hiLoMoves : Obligations.HiLoMoves := by
  unfold Obligations.HiLoMoves
  intro rs rt rd shamt s
  refine ⟨runs_writeResult ?_ rfl rfl, runs_writeResult ?_ rfl rfl,
    ⟨?_, _, rfl, writeHiLo_hi .., writeHiLo_lo .., onlyHiLo_writeHiLo ..⟩,
    ⟨?_, _, rfl, writeHiLo_lo .., writeHiLo_hi .., onlyHiLo_writeHiLo ..⟩⟩
  all_goals simp only [decode_rWord_special, decodeSpecial, fields_rWord]

end Sys2Proof.Machine

/-! Jumps and branches (42_branch.md). Each instruction ends in a `transfer` or a `branchIf`, on the state itself or on
the state with the link written, so four rules give the mark of the delay slot and the frame of all of them; what is
left of a statement is its row of the decoder and its target or its condition in the statement's words. -/

namespace Sys2Proof

/-- Every field of a jump-form word (30_encoding.md R253). -/
theorem fields_jWord (op : BitVec 6) (target26 : BitVec 26) :
    opcodeOf (jWord op target26) = op ∧ target26Of (jWord op target26) = target26 :=
  ⟨opcodeOf_jWord .., target26Of_jWord ..⟩

end Sys2Proof

namespace Sys2Proof.Machine

/-! ### Targets and conditions -/

/-- The mask and the shift of R451 as fields: the region of `np`, the 26 bits of the word, and two zeros. -/
theorem jumpTarget_eq_append (np : Word) (target26 : BitVec 26) :
    jumpTarget np target26 = np.extractLsb' 28 4 ++ target26 ++ 0#2 := by
  have mask : 0xF0000000#32 = BitVec.allOnes 32 <<< 28 := rfl
  refine BitVec.eq_of_getLsbD_eq fun i hi => ?_
  simp only [jumpTarget, mask, BitVec.getLsbD_or, BitVec.getLsbD_and, BitVec.getLsbD_shiftLeft, BitVec.getLsbD_allOnes,
    BitVec.getLsbD_setWidth, BitVec.getLsbD_append, BitVec.getLsbD_extractLsb', BitVec.getLsbD_zero]
  rcases show i < 2 ∨ (2 ≤ i ∧ i < 28) ∨ 28 ≤ i by omega with zeros | ⟨low, high⟩ | region
  · simp [zeros, show i < 28 by omega]
  · simp [high, show ¬ i < 2 by omega, show i - 2 < 26 by omega, show i - 2 < 32 by omega, hi]
  · simp [hi, show ¬ i < 28 by omega, show ¬ i < 2 by omega, show ¬ i - 2 < 26 by omega, show i - 28 < 32 by omega,
      show i - 2 - 26 < 4 by omega, show 28 + (i - 2 - 26) = i by omega,
      BitVec.getLsbD_of_ge target26 (i - 2) (by omega)]

/-- The sign bit as a comparison with zero (R461, R462). -/
theorem msb_iff_toInt_neg (v : Word) : v.msb = true ↔ v.toInt < 0 := by
  rw [BitVec.msb_eq_toInt, decide_eq_true_eq]

/-- The clear sign bit as a comparison with zero (R463, R464). -/
theorem not_msb_iff_toInt_nonneg (v : Word) : (!v.msb) = true ↔ 0 ≤ v.toInt := by
  rw [BitVec.msb_eq_toInt, Bool.not_eq_true', decide_eq_false_iff_not, Int.not_lt]

/-! ### An instruction that transfers control -/

section
variable {w : Word} {i : Instr} {s : State} {r : RegIdx} {v : Word} {c : Bool} {imm16 : BitVec 16}

theorem runs_transfer {v' : Word} (hd : decode w = .instr i) (he : exec i s = .next (transfer v s)) (hv : v = v') :
    Runs w i s (fun t => t.nextPc = v' ∧ t.branchTaken = true ∧ OnlyTransfer SameGprs s t) :=
  ⟨hd, transfer v s, he, hv, transfer_branchTaken .., onlyTransfer_transfer s v⟩

/-- The link is the old `next_pc`, whichever register takes it (R451). -/
theorem runs_linked {v' : Word} (hd : decode w = .instr i) (he : exec i s = .next (transfer v (link r s)))
    (hv : v = v') :
    Runs w i s (fun t => t.nextPc = v' ∧ t.branchTaken = true ∧ OnlyTransfer (GprWritten r s.nextPc) s t) :=
  ⟨hd, transfer v (link r s), he, hv, transfer_branchTaken .., onlyTransfer_linked s r v⟩

theorem runs_branchIf {p : Prop} [Decidable p] (hd : decode w = .instr i)
    (he : exec i s = .next (branchIf c imm16 s)) (hp : c = true ↔ p) :
    Runs w i s (fun t => BranchOutcome p imm16 s t ∧ OnlyTransfer SameGprs s t) :=
  ⟨hd, branchIf c imm16 s, he, branchOutcome_branchIf s c p hp imm16, onlyTransfer_branchIf s c imm16⟩

theorem runs_linkedBranch {p : Prop} [Decidable p] (hd : decode w = .instr i)
    (he : exec i s = .next (branchIf c imm16 (link r s))) (hp : c = true ↔ p) :
    Runs w i s (fun t => BranchOutcome p imm16 s t ∧ OnlyTransfer (GprWritten r s.nextPc) s t) :=
  ⟨hd, branchIf c imm16 (link r s), he, branchOutcome_linkedBranch s r c p hp imm16,
    onlyTransfer_linkedBranch s r c imm16⟩

end

/-! ### The statements -/

/-- Settles O15: JALR's target is a register of the state before the link, so `rd = rs` needs no case of its own. -/
theorem jumpResults : Obligations.JumpResults := by
  unfold Obligations.JumpResults
  intro target26 rd rs rt shamt s
  have target := jumpTarget_eq_append s.nextPc target26
  refine ⟨runs_transfer ?_ rfl target, runs_linked ?_ rfl target, runs_transfer ?_ rfl rfl, runs_linked ?_ rfl rfl⟩
  · simp only [decode, fields_jWord]
  · simp only [decode, fields_jWord]
  · simp only [decode_rWord_special, decodeSpecial, fields_rWord]
  · simp only [decode_rWord_special, decodeSpecial, fields_rWord]

/-- Settles O16: the four compared conditions are the model's own, the two on the sign bit are comparisons with 0. -/
theorem branchResults : Obligations.BranchResults := by
  unfold Obligations.BranchResults
  intro rs rt imm16 s
  refine ⟨runs_branchIf ?_ rfl beq_iff_eq, runs_branchIf ?_ rfl bne_iff_ne,
    runs_branchIf ?_ rfl decide_eq_true_iff, runs_branchIf ?_ rfl decide_eq_true_iff,
    runs_branchIf ?_ rfl (msb_iff_toInt_neg _), runs_branchIf ?_ rfl (not_msb_iff_toInt_nonneg _)⟩
  all_goals simp only [decode, decodeBcond, fields_iWord]

/-- Settles O17: the condition is of the state before the link, so `rs = r31` needs no case of its own. -/
theorem branchAndLinkResults : Obligations.BranchAndLinkResults := by
  unfold Obligations.BranchAndLinkResults
  intro rs imm16 s
  refine ⟨runs_linkedBranch ?_ rfl (msb_iff_toInt_neg _), runs_linkedBranch ?_ rfl (not_msb_iff_toInt_nonneg _)⟩
  all_goals simp only [decode, decodeBcond, fields_iWord]

end Sys2Proof.Machine

/-! The coprocessor-usable check (44_system_cop.md R562, R578). Every word of a coprocessor opcode, the reserved ones
too, decodes to something that runs behind `withCop` (`ChecksCopFirst`), so a failing check alone decides what the word
does. -/

namespace Sys2Proof.Machine

/-! ### The check -/

/-- The only exception of `CheckCop(z)` is CpU with the number `z` (R562). -/
theorem checkCop_eq_cpU {z : BitVec 2} {s : State} (h : checkCop z s ≠ none) : checkCop z s = some (.cpU z) := by
  unfold checkCop at h ⊢
  split_ifs at h ⊢ with zero _ two
  · rw [zero]
  · exact absurd rfl h
  · exact absurd rfl h
  · rw [two]
  · rfl

theorem withCop_of_checkCop {z : BitVec 2} {s : State} {e : Exc} (h : checkCop z s = some e) (action : Result) :
    withCop z s action = .next (enterException e s) := by
  unfold withCop; rw [h]; rfl

/-! ### The words of each coprocessor -/

/-- What a word decodes to runs only after `CheckCop(z)`, as an instruction or as a reserved word. -/
def ChecksCopFirst (z : BitVec 2) : Decoded → Prop
  | .instr i => ∀ s, ∃ action, exec i s = withCop z s action
  | .reserved why => ∀ s, ∃ action, execReserved why s = withCop z s action

theorem checksCopFirst_decodeCop0 (w : Word) : ChecksCopFirst 0#2 (decodeCop0 w) := by
  unfold decodeCop0
  split_ifs
  · exact fun _ => ⟨_, rfl⟩
  · exact fun _ => ⟨_, rfl⟩
  · split <;> exact fun _ => ⟨_, rfl⟩

theorem checksCopFirst_decodeCop2 (w : Word) : ChecksCopFirst 2#2 (decodeCop2 w) := by
  unfold decodeCop2
  split_ifs
  · exact fun _ => ⟨_, rfl⟩
  · split <;> exact fun _ => ⟨_, rfl⟩

section
variable {w : Word}

/-- COP0, LWC0 and SWC0. -/
theorem checksCopFirst_zero (h : opcodeOf w ∈ [0x10#6, 0x30#6, 0x38#6]) : ChecksCopFirst 0#2 (decode w) := by
  simp only [List.mem_cons, List.not_mem_nil, or_false] at h
  rcases h with cop | lwc | swc
  · simp only [decode, cop]
    exact checksCopFirst_decodeCop0 w
  · simp only [decode, lwc]
    exact fun _ => ⟨_, rfl⟩
  · simp only [decode, swc]
    exact fun _ => ⟨_, rfl⟩

/-- COP2, LWC2 and SWC2. -/
theorem checksCopFirst_two (h : opcodeOf w ∈ [0x12#6, 0x32#6, 0x3A#6]) : ChecksCopFirst 2#2 (decode w) := by
  simp only [List.mem_cons, List.not_mem_nil, or_false] at h
  rcases h with cop | lwc | swc
  · simp only [decode, cop]
    exact checksCopFirst_decodeCop2 w
  · simp only [decode, lwc]
    exact fun _ => ⟨_, rfl⟩
  · simp only [decode, swc]
    exact fun _ => ⟨_, rfl⟩

/-- COP1, LWC1 and SWC1: the check never passes, so nothing stands behind it (R578). -/
theorem checksCopFirst_one (h : opcodeOf w ∈ [0x11#6, 0x31#6, 0x39#6]) : ChecksCopFirst 1#2 (decode w) := by
  simp only [List.mem_cons, List.not_mem_nil, or_false] at h
  rcases h with h | h | h <;> simp only [decode, h] <;> exact fun s => ⟨absentCop 1#2 s, rfl⟩

/-- COP3, LWC3 and SWC3, as coprocessor 1 (R578). -/
theorem checksCopFirst_three (h : opcodeOf w ∈ [0x13#6, 0x33#6, 0x3B#6]) : ChecksCopFirst 3#2 (decode w) := by
  simp only [List.mem_cons, List.not_mem_nil, or_false] at h
  rcases h with h | h | h <;> simp only [decode, h] <;> exact fun s => ⟨absentCop 3#2 s, rfl⟩

end

/-- Where the check fails, the word takes the CpU entry whatever it is. -/
theorem execute_cpU {z : BitVec 2} {s : State} (first : ChecksCopFirst z (decode s.currentInstruction))
    (fails : checkCop z s ≠ none) : execute s = .next (enterException (.cpU z) s) := by
  have cpU := withCop_of_checkCop (checkCop_eq_cpU fails)
  unfold execute
  cases hd : decode s.currentInstruction with
  | instr i =>
    rw [hd] at first
    obtain ⟨action, h⟩ := first s
    exact h.trans (cpU action)
  | reserved why =>
    rw [hd] at first
    obtain ⟨action, h⟩ := first s
    exact h.trans (cpU action)

/-! ### The statements -/

/-- Settles O38: for each coprocessor, its words check first and the check fails. -/
theorem coprocessorUnusable : Obligations.CoprocessorUnusable := by
  unfold Obligations.CoprocessorUnusable
  refine fun s => ⟨fun ⟨word, unusable⟩ => ?_, fun ⟨word, noCu2⟩ => ?_, fun word => ?_, fun word => ?_⟩
  · exact execute_cpU (checksCopFirst_zero word) (mt (checkCop_zero s).1 unusable)
  · exact execute_cpU (checksCopFirst_two word) (mt (checkCop_two s).1 (by simp [noCu2]))
  · exact execute_cpU (checksCopFirst_one word) (Option.some_ne_none _)
  · exact execute_cpU (checksCopFirst_three word) (Option.some_ne_none _)

/-- Settles O39: the six rows of the primary table have no sub-decoding, and each meaning is `absentCop`. -/
theorem absentCoprocessors : Obligations.AbsentCoprocessors := by
  unfold Obligations.AbsentCoprocessors
  intro ignored s
  refine ⟨⟨?_, rfl⟩, ⟨?_, rfl⟩, ⟨?_, rfl⟩, ⟨?_, rfl⟩, ⟨?_, rfl⟩, ⟨?_, rfl⟩⟩
  all_goals simp only [decode, opcodeOf_jWord]

end Sys2Proof.Machine

/-! Taking an exception (60_exceptions.md R640, R655, R657). `cp0Reg_enterException` gives every CP0 register after the
entry; here it is read for the registers the entry writes, for those it keeps, and bit by bit for Cause. -/

namespace Sys2Proof.Machine

section
variable (e : Exc) (s : State)

theorem epc_enterException :
    (enterException e s).epc = if s.inDelaySlot then s.currentPc - 4#32 else s.currentPc := by
  rw [State.epc, cp0Reg_enterException, if_pos rfl]

theorem cause_enterException :
    (enterException e s).cause = causeOnEntry s.cause s.inDelaySlot e.code e.ce := by
  rw [State.cause, cp0Reg_enterException, if_neg (by decide), if_pos rfl]

theorem badVAddr_enterException : (enterException e s).badVAddr = e.badVAddr.getD s.badVAddr := by
  rw [State.badVAddr, cp0Reg_enterException, if_neg (by decide), if_neg (by decide), if_neg (by decide), if_pos rfl]

theorem cp0SameBut_enterException :
    Cp0SameBut (fun n => n = 8#5 ∨ n = 12#5 ∨ n = 13#5 ∨ n = 14#5) s (enterException e s) := by
  intro n kept
  obtain ⟨h8, h12, h13, h14⟩ : n ≠ 8#5 ∧ n ≠ 12#5 ∧ n ≠ 13#5 ∧ n ≠ 14#5 := by simpa using kept
  rw [cp0Reg_enterException, if_neg h14, if_neg h13, if_neg h12, if_neg h8]

theorem getLsbD_cause_enterException (i : Nat) :
    (enterException e s).cause.getLsbD i =
      if i = 31 then s.inDelaySlot
      else if 2 ≤ i ∧ i ≤ 6 then e.code.getLsbD (i - 2)
      else if 28 ≤ i ∧ i ≤ 29 then (e.ce.map (·.getLsbD (i - 28))).getD (s.cause.getLsbD i)
      else s.cause.getLsbD i := by
  have code : i < 7 ↔ i ≤ 6 := Nat.lt_succ_iff
  have ce : i < 30 ↔ i ≤ 29 := Nat.lt_succ_iff
  simp only [cause_enterException, getLsbD_causeOnEntry, code, ce]
  cases e.ce <;> rfl

end

/-- Settles O41: what the entry writes is read off its CP0 registers, the vector is by BEV, and the latch and the frame
hold field by field. -/
theorem exceptionEntry : Obligations.ExceptionEntry := by
  unfold Obligations.ExceptionEntry
  intro e s
  refine ⟨_, rfl, epc_enterException e s, fun i => ?cause, fun i => ?sr, ?badVAddr, cp0SameBut_enterException e s,
    rfl, rfl, rfl, rfl, rfl, rfl, rfl, rfl, rfl, ⟨rfl, rfl, rfl⟩, ⟨rfl, rfl⟩, ⟨rfl, rfl⟩, fun _ => rfl,
    ⟨rfl, rfl, rfl, rfl⟩⟩
  case cause =>
    rw [getLsbD_cause_enterException]
    cases e <;> rfl
  case sr => rw [sr_enterException, getLsbD_pushModeStack]
  case badVAddr =>
    rw [badVAddr_enterException]
    cases e <;> rfl

end Sys2Proof.Machine

/-! What reset gives (70_reset_and_hazards.md R731, R732). The three stages of the register file are filled with zeros,
CP0 is two writes over a filled file, and no byte is listed; the rest are fields of `State.reset`. -/

namespace Sys2Proof.Machine

theorem slot_replicate (v : Word) (i : RegIdx) : slot (Vector.replicate 32 v) i = v := Vector.getElem_replicate _

theorem x_eq_zero_of_slot {s : State} {r : RegIdx} (h : slot s.s3 r = 0#32) : s.x r = 0#32 := by
  rw [State.x, h, ite_self]

theorem xf_eq_zero_of_slot {s : State} {r : RegIdx} (h : slot s.s1 r = 0#32) : s.xf r = 0#32 := by
  rw [State.xf, h, ite_self]

theorem resetCp0_eq_setSlot :
    State.resetCp0 =
      setSlot (setSlot (Vector.replicate 32 Config.unspecifiedReset) 12#5 Config.resetSr) 15#5 Config.resetPrId := rfl

theorem cp0Reg_reset (n : RegIdx) :
    State.reset.cp0Reg n =
      if n = 15#5 then Config.resetPrId else if n = 12#5 then Config.resetSr else Config.unspecifiedReset := by
  rw [State.cp0Reg, State.reset, resetCp0_eq_setSlot, slot_setSlot, slot_setSlot, slot_replicate]

theorem read_mem_reset (loc : Nat) : State.reset.mem.read loc = 0#8 := rfl

/-- Settles O52: the registers are slots of filled files, SR and PRId are read off the CP0 registers at reset, every
byte reads as an unlisted one, and the latch, the marks and the interrupt registers are fields of `State.reset`. -/
theorem resetValues : Obligations.ResetValues := by
  unfold Obligations.ResetValues
  refine ⟨rfl, rfl, rfl, rfl, rfl, rfl, fun r => ?registers, rfl, rfl, rfl, ?sr, ?prId, rfl, rfl,
    fun loc _ => read_mem_reset loc⟩
  case registers =>
    exact ⟨x_eq_zero_of_slot (slot_replicate 0#32 r), xf_eq_zero_of_slot (slot_replicate 0#32 r),
      slot_replicate 0#32 r⟩
  case sr => rw [State.sr, cp0Reg_reset, if_neg (by decide), if_pos rfl, Config.resetSr]
  case prId => rw [cp0Reg_reset, if_pos rfl, Config.resetPrId]

end Sys2Proof.Machine

/-! The encoder and the decoder (30_encoding.md). `decode_encode` goes table by table, from the fields of each word
format; for the other direction every word is the word of its own fields, so a mask acts field by field. -/

namespace Sys2Proof

/-! ### Decoding the encoder's word -/

/-- Every field of a word of SYSCALL or BREAK (30_encoding.md R254). -/
theorem fields_codeWord (code20 : BitVec 20) (fn : BitVec 6) :
    opcodeOf (codeWord code20 fn) = 0x00#6 ∧ functOf (codeWord code20 fn) = fn
      ∧ code20Of (codeWord code20 fn) = code20 :=
  ⟨opcodeOf_codeWord .., functOf_codeWord .., code20Of_codeWord ..⟩

/-- Every field of a word of a coprocessor operation (30_encoding.md R254). -/
theorem fields_copWord (op : BitVec 6) (imm25 : BitVec 25) :
    opcodeOf (copWord op imm25) = op ∧ coOf (copWord op imm25) = true ∧ imm25Of (copWord op imm25) = imm25 :=
  ⟨opcodeOf_copWord .., coOf_copWord .., imm25Of_copWord ..⟩

/-- A word of SYSCALL or BREAK is read by the SPECIAL table (R256, R257). -/
theorem decode_codeWord (code20 : BitVec 20) (fn : BitVec 6) :
    decode (codeWord code20 fn) = decodeSpecial (codeWord code20 fn) := by
  simp only [decode, opcodeOf_codeWord]

/-- A word of opcode 1 is read by the BCOND table (R258). -/
theorem decode_iWord_bcond (rs rt : BitVec 5) (imm16 : BitVec 16) :
    decode (iWord 0x01#6 rs rt imm16) = decodeBcond (iWord 0x01#6 rs rt imm16) := by
  simp only [decode, opcodeOf_iWord]

/-- A register-form word of opcode 0x10 is read by the COP0 table (R259). -/
theorem decode_rWord_cop0 (rs rt rd sh : BitVec 5) (fn : BitVec 6) :
    decode (rWord 0x10#6 rs rt rd sh fn) = decodeCop0 (rWord 0x10#6 rs rt rd sh fn) := by
  simp only [decode, opcodeOf_rWord]

/-- A register-form word of opcode 0x12 is read by the COP2 table (R259). -/
theorem decode_rWord_cop2 (rs rt rd sh : BitVec 5) (fn : BitVec 6) :
    decode (rWord 0x12#6 rs rt rd sh fn) = decodeCop2 (rWord 0x12#6 rs rt rd sh fn) := by
  simp only [decode, opcodeOf_rWord]

/-- `coOf_rWord` at the `rs` values of the COP0 and COP2 moves: none has the coprocessor-operation bit (R259). -/
theorem coOf_rWord_move (op fn : BitVec 6) (rt rd sh : BitVec 5) :
    coOf (rWord op 0x00#5 rt rd sh fn) = false ∧ coOf (rWord op 0x02#5 rt rd sh fn) = false
      ∧ coOf (rWord op 0x04#5 rt rd sh fn) = false ∧ coOf (rWord op 0x06#5 rt rd sh fn) = false := by
  simp only [coOf_rWord]; decide

/-- The four moves of COP0, whatever the ignored low bits are (R259). -/
theorem decode_cop0_moves (rt rd sh : BitVec 5) (fn : BitVec 6) :
    decode (rWord 0x10#6 0x00#5 rt rd sh fn) = .instr (.mfc0 rt rd)
      ∧ decode (rWord 0x10#6 0x02#5 rt rd sh fn) = .instr (.cfc0 rt rd)
      ∧ decode (rWord 0x10#6 0x04#5 rt rd sh fn) = .instr (.mtc0 rt rd)
      ∧ decode (rWord 0x10#6 0x06#5 rt rd sh fn) = .instr (.ctc0 rt rd) := by
  simp only [decode_rWord_cop0, decodeCop0, coOf_rWord_move, fields_rWord, Bool.false_eq_true, if_false, and_self]

/-- The four moves of COP2, whatever the ignored low bits are (R259). -/
theorem decode_cop2_moves (rt rd sh : BitVec 5) (fn : BitVec 6) :
    decode (rWord 0x12#6 0x00#5 rt rd sh fn) = .instr (.mfc2 rt rd)
      ∧ decode (rWord 0x12#6 0x02#5 rt rd sh fn) = .instr (.cfc2 rt rd)
      ∧ decode (rWord 0x12#6 0x04#5 rt rd sh fn) = .instr (.mtc2 rt rd)
      ∧ decode (rWord 0x12#6 0x06#5 rt rd sh fn) = .instr (.ctc2 rt rd) := by
  simp only [decode_rWord_cop2, decodeCop2, coOf_rWord_move, fields_rWord, Bool.false_eq_true, if_false, and_self]

/-- A command of coprocessor 2 (R259). -/
theorem decode_cop2_command (imm25 : BitVec 25) : decode (copWord 0x12#6 imm25) = .instr (.cop2 imm25) := by
  simp only [decode, decodeCop2, fields_copWord, if_true]

/-- RFE, whatever its 19 ignored bits are (R259, R260). -/
theorem decode_rfe (ignored : BitVec 19) : decode (copWord 0x10#6 (ignored ++ 0x10#6)) = .instr .rfe := by
  have funct : functOf (copWord 0x10#6 (ignored ++ 0x10#6)) = 0x10#6 := by
    rw [functOf_copWord, BitVec.extractLsb'_append_eq_right]
  simp only [decode, decodeCop0, fields_copWord, funct, if_true]

theorem decode_encode (i : Instr) : decode (encode i) = .instr i := by
  cases i with
  | syscall | breakpoint => simp only [encode, decode_codeWord, decodeSpecial, fields_codeWord]
  | bltz | bgez | bltzal | bgezal => simp only [encode, decode_iWord_bcond, decodeBcond, fields_iWord]
  | mfc0 | cfc0 | mtc0 | ctc0 => simp only [encode, decode_cop0_moves]
  | mfc2 | cfc2 | mtc2 | ctc2 => simp only [encode, decode_cop2_moves]
  | rfe => exact decode_rfe 0#19
  | cop2 imm25 => exact decode_cop2_command imm25
  | cop1 | cop3 | lwc1 | lwc3 | swc1 | swc3 | j | jal => simp only [encode, decode, fields_jWord]
  | addi | addiu | slti | sltiu | andi | ori | xori | lui | beq | bne | blez | bgtz
  | lb | lbu | lh | lhu | lw | lwl | lwr | sb | sh | sw | swl | swr | lwc0 | swc0 | lwc2 | swc2 =>
    simp only [encode, decode, fields_iWord]
  | _ => -- the register forms of opcode 0
    simp only [encode, decode_rWord_special, decodeSpecial, fields_rWord]

/-- Settles O1, by the tables of the decoder: in each the fields of the encoder's word select the row again and give
its operands back. -/
theorem decodeOfEncodeIsTheInstruction : Obligations.DecodeOfEncodeIsTheInstruction := by
  unfold Obligations.DecodeOfEncodeIsTheInstruction
  exact decode_encode

/-! ### A word under the mask of its row -/

section
variable (w mask : Word)

/-- A word is the register-form word of its fields (R251). -/
theorem eq_rWord : w = rWord (opcodeOf w) (rsOf w) (rtOf w) (rdOf w) (shamtOf w) (functOf w) := by
  refine BitVec.eq_of_getLsbD_eq fun i hi => ?_
  simp only [getLsbD_rWord, opcodeOf, rsOf, rtOf, rdOf, shamtOf, functOf, BitVec.getLsbD_extractLsb']
  split_ifs <;> grind

/-- A word is the immediate-form word of its fields (R252). -/
theorem eq_iWord : w = iWord (opcodeOf w) (rsOf w) (rtOf w) (imm16Of w) := by
  refine BitVec.eq_of_getLsbD_eq fun i hi => ?_
  simp only [getLsbD_iWord, opcodeOf, rsOf, rtOf, imm16Of, BitVec.getLsbD_extractLsb']
  split_ifs <;> grind

/-- A word is the jump-form word of its fields (R253). -/
theorem eq_jWord : w = jWord (opcodeOf w) (target26Of w) := by
  refine BitVec.eq_of_getLsbD_eq fun i hi => ?_
  simp only [getLsbD_jWord, opcodeOf, target26Of, BitVec.getLsbD_extractLsb']
  split_ifs <;> grind

/-- A word of opcode 0 is the SYSCALL or BREAK word of its fields (R254). -/
theorem eq_codeWord (hop : opcodeOf w = 0x00#6) : w = codeWord (code20Of w) (functOf w) := by
  refine BitVec.eq_of_getLsbD_eq fun i hi => ?_
  simp only [getLsbD_codeWord, ← hop, opcodeOf, code20Of, functOf, BitVec.getLsbD_extractLsb']
  split_ifs <;> grind

/-- A word with the coprocessor-operation bit is the operation word of its fields (R254). -/
theorem eq_copWord (hco : coOf w = true) : w = copWord (opcodeOf w) (imm25Of w) := by
  refine BitVec.eq_of_getLsbD_eq fun i hi => ?_
  simp only [getLsbD_copWord, opcodeOf, imm25Of, BitVec.getLsbD_extractLsb']
  split_ifs with low co
  · grind
  · obtain rfl : i = 25 := by omega
    exact hco
  · grind

theorem and_eq_rWord : w &&& mask = rWord (opcodeOf w &&& mask.extractLsb' 26 6)
    (rsOf w &&& mask.extractLsb' 21 5) (rtOf w &&& mask.extractLsb' 16 5) (rdOf w &&& mask.extractLsb' 11 5)
    (shamtOf w &&& mask.extractLsb' 6 5) (functOf w &&& mask.extractLsb' 0 6) := by
  conv => lhs; rw [eq_rWord w, eq_rWord mask, Laws.rWord_and]
  rfl

theorem and_eq_iWord : w &&& mask = iWord (opcodeOf w &&& mask.extractLsb' 26 6)
    (rsOf w &&& mask.extractLsb' 21 5) (rtOf w &&& mask.extractLsb' 16 5) (imm16Of w &&& mask.extractLsb' 0 16) := by
  conv => lhs; rw [eq_iWord w, eq_iWord mask, Laws.iWord_and]
  rfl

theorem and_eq_jWord :
    w &&& mask = jWord (opcodeOf w &&& mask.extractLsb' 26 6) (target26Of w &&& mask.extractLsb' 0 26) := by
  conv => lhs; rw [eq_jWord w, eq_jWord mask, Laws.jWord_and]
  rfl

/-- The mask of the rows whose every bit selects or is an operand. -/
theorem and_ones32 : w &&& 0xFFFFFFFF#32 = w := BitVec.and_allOnes

end

/-- The bit of `rs` that makes a COP0 word an operation is bit 25 of the word (R259). -/
theorem rsOf_and_co {w : Word} (hco : coOf w = true) : rsOf w &&& 0x10#5 = 0x10#5 := by
  have bit : (rsOf w).getLsbD 4 = true := by rw [rsOf, BitVec.getLsbD_extractLsb']; exact hco
  generalize rsOf w = rs at bit ⊢
  revert rs
  decide

section
variable {w : Word} {i : Instr}

theorem encode_of_decodeSpecial (hop : opcodeOf w = 0x00#6) (h : decodeSpecial w = .instr i) :
    encode i = w &&& usedBits i := by
  have code := eq_codeWord w hop
  unfold decodeSpecial at h
  split at h
  all_goals cases h
  case h_9 hf | h_10 hf => -- SYSCALL and BREAK
    rw [usedBits, and_ones32, encode, ← hf]
    exact code.symm
  all_goals
    rename_i hf
    simp only [encode, usedBits, and_eq_rWord, hop, hf, BitVec.reduceExtractLsb', BitVec.reduceAnd, Laws.and_ones5,
      BitVec.and_zero]

theorem encode_of_decodeBcond (hop : opcodeOf w = 0x01#6) (h : decodeBcond w = .instr i) :
    encode i = w &&& usedBits i := by
  have word := eq_iWord w
  unfold decodeBcond at h
  split at h
  all_goals cases h
  all_goals
    rename_i hrt
    rw [usedBits, and_ones32, encode, ← hop, ← hrt]
    exact word.symm

theorem encode_of_decodeCop0 (hop : opcodeOf w = 0x10#6) (h : decodeCop0 w = .instr i) :
    encode i = w &&& usedBits i := by
  unfold decodeCop0 at h
  split_ifs at h with hco hf
  · cases h
    simp only [encode, usedBits, and_eq_rWord, hop, hf, rsOf_and_co hco, BitVec.reduceExtractLsb', BitVec.reduceAnd,
      BitVec.and_zero]
  · split at h
    all_goals cases h
    all_goals
      rename_i hrs
      simp only [encode, usedBits, and_eq_rWord, hop, hrs, BitVec.reduceExtractLsb', BitVec.reduceAnd, Laws.and_ones5,
        BitVec.and_zero]

theorem encode_of_decodeCop2 (hop : opcodeOf w = 0x12#6) (h : decodeCop2 w = .instr i) :
    encode i = w &&& usedBits i := by
  unfold decodeCop2 at h
  split_ifs at h with hco
  · cases h
    rw [usedBits, and_ones32, encode, ← hop]
    exact (eq_copWord w hco).symm
  · split at h
    all_goals cases h
    all_goals
      rename_i hrs
      simp only [encode, usedBits, and_eq_rWord, hop, hrs, BitVec.reduceExtractLsb', BitVec.reduceAnd, Laws.and_ones5,
        BitVec.and_zero]

theorem encode_of_decode (h : decode w = .instr i) : encode i = w &&& usedBits i := by
  unfold decode at h
  split at h
  case h_1 hop => exact encode_of_decodeSpecial hop h
  case h_2 hop => exact encode_of_decodeBcond hop h
  case h_17 hop => exact encode_of_decodeCop0 hop h
  case h_19 hop => exact encode_of_decodeCop2 hop h
  -- the jump forms, and the words of absent coprocessors, of which the opcode alone is used
  case h_3 hop | h_4 hop | h_18 hop | h_20 hop | h_34 hop | h_36 hop | h_38 hop | h_40 hop =>
    cases h
    simp only [encode, usedBits, and_eq_jWord, hop, BitVec.reduceExtractLsb', BitVec.reduceAnd, Laws.and_ones26,
      BitVec.and_zero]
  -- the immediate forms
  all_goals cases h
  all_goals
    rename_i hop
    simp only [encode, usedBits, and_eq_iWord, hop, BitVec.reduceExtractLsb', BitVec.reduceAnd, Laws.and_ones5,
      Laws.and_ones16, BitVec.and_zero]

end

/-- Settles O2, by the tables of the decoder: the row that a word selects has the word's own fields as operands, and its
mask keeps those and the selecting fields. -/
theorem encodeOfDecodedWordClearsIgnoredBits : Obligations.EncodeOfDecodedWordClearsIgnoredBits := by
  unfold Obligations.EncodeOfDecodedWordClearsIgnoredBits
  exact fun w i h => encode_of_decode h

/-! ### Reserved words (30_encoding.md R261) -/

/-- The decoder's answer is no instruction. -/
def Decoded.isReserved : Decoded → Bool
  | .instr _ => false
  | .reserved _ => true

theorem isReserved_iff (d : Decoded) : d.isReserved = true ↔ ∃ why, d = .reserved why := by
  cases d <;> simp [Decoded.isReserved]

section
variable (w : Word)

theorem toNat_opcodeOf : (opcodeOf w).toNat = w.toNat / 2 ^ 26 := by
  have := w.isLt
  rw [opcodeOf, BitVec.extractLsb'_toNat, Nat.shiftRight_eq_div_pow]
  omega

theorem toNat_rsOf : (rsOf w).toNat = w.toNat / 2 ^ 21 % 32 := by
  rw [rsOf, BitVec.extractLsb'_toNat, Nat.shiftRight_eq_div_pow]

theorem toNat_rtOf : (rtOf w).toNat = w.toNat / 2 ^ 16 % 32 := by
  rw [rtOf, BitVec.extractLsb'_toNat, Nat.shiftRight_eq_div_pow]

theorem toNat_functOf : (functOf w).toNat = w.toNat % 64 := by
  rw [functOf, BitVec.extractLsb'_toNat, Nat.shiftRight_zero]

theorem coOf_eq_decide : coOf w = decide (0x10 ≤ (rsOf w).toNat) := by
  have bit : coOf w = (rsOf w).getLsbD 4 := by rw [rsOf, BitVec.getLsbD_extractLsb']; rfl
  rw [bit]
  generalize rsOf w = rs
  revert rs
  decide

/-- `reservedWord` by the fields that the decoder reads. -/
theorem reservedWord_eq : reservedWord w =
    (reservedPrimary.contains (opcodeOf w).toNat
      || ((opcodeOf w).toNat == 0x00 && reservedSpecial.contains (functOf w).toNat)
      || ((opcodeOf w).toNat == 0x01 && !legalBcond.contains (rtOf w).toNat)
      || (((opcodeOf w).toNat == 0x10 || (opcodeOf w).toNat == 0x12) && decide ((rsOf w).toNat < 0x10)
        && !legalCopMove.contains (rsOf w).toNat)
      || ((opcodeOf w).toNat == 0x10 && decide (0x10 ≤ (rsOf w).toNat) && (functOf w).toNat != 0x10)) := by
  rw [toNat_opcodeOf, toNat_rsOf, toNat_rtOf, toNat_functOf]; rfl

/-- Every `funct` is reserved (R261) or has a row of the SPECIAL table (R257). -/
theorem special_rows (f : BitVec 6) : reservedSpecial.contains f.toNat = true
    ∨ f ∈ [0x00#6, 0x02#6, 0x03#6, 0x04#6, 0x06#6, 0x07#6, 0x08#6, 0x09#6, 0x0C#6, 0x0D#6, 0x10#6, 0x11#6, 0x12#6,
      0x13#6, 0x18#6, 0x19#6, 0x1A#6, 0x1B#6, 0x20#6, 0x21#6, 0x22#6, 0x23#6, 0x24#6, 0x25#6, 0x26#6, 0x27#6, 0x2A#6,
      0x2B#6] := by
  revert f; decide

/-- Every opcode is reserved (R261) or has a row of the primary table (R256). -/
theorem primary_rows (op : BitVec 6) : reservedPrimary.contains op.toNat = true
    ∨ op ∈ [0x00#6, 0x01#6, 0x02#6, 0x03#6, 0x04#6, 0x05#6, 0x06#6, 0x07#6, 0x08#6, 0x09#6, 0x0A#6, 0x0B#6, 0x0C#6,
      0x0D#6, 0x0E#6, 0x0F#6, 0x10#6, 0x11#6, 0x12#6, 0x13#6, 0x20#6, 0x21#6, 0x22#6, 0x23#6, 0x24#6, 0x25#6, 0x26#6,
      0x28#6, 0x29#6, 0x2A#6, 0x2B#6, 0x2E#6, 0x30#6, 0x31#6, 0x32#6, 0x33#6, 0x38#6, 0x39#6, 0x3A#6, 0x3B#6] := by
  revert op; decide

theorem isReserved_decodeSpecial :
    (decodeSpecial w).isReserved = reservedSpecial.contains (functOf w).toNat := by
  unfold decodeSpecial
  split
  case h_29 =>
    rcases special_rows (functOf w) with reserved | row
    · rw [reserved]; rfl
    · simp_all
  all_goals (rename_i hf; rw [hf]; rfl)

theorem isReserved_decodeBcond : (decodeBcond w).isReserved = !legalBcond.contains (rtOf w).toNat := by
  unfold decodeBcond
  split
  case h_5 =>
    generalize rtOf w = r at *
    revert r
    decide
  all_goals (rename_i hr; rw [hr]; rfl)

/-- An operation of COP0 is reserved by its `funct`, a move by `cop_rs`. -/
theorem isReserved_decodeCop0 : (decodeCop0 w).isReserved =
    if 0x10 ≤ (rsOf w).toNat then (functOf w).toNat != 0x10 else !legalCopMove.contains (rsOf w).toNat := by
  unfold decodeCop0
  rw [coOf_eq_decide]
  by_cases hco : 0x10 ≤ (rsOf w).toNat
  · rw [if_pos (decide_eq_true hco), if_pos hco]
    by_cases hf : functOf w = 0x10#6
    · rw [if_pos hf, hf]; rfl
    · rw [if_neg hf]
      exact (bne_iff_ne.2 fun h => hf (BitVec.eq_of_toNat_eq h)).symm
  · rw [if_neg (by simpa using hco), if_neg hco]
    split
    case h_5 =>
      generalize rsOf w = r at *
      revert r
      decide
    all_goals (rename_i hr; rw [hr]; rfl)

/-- No command of COP2 is reserved, and a move is by `cop_rs`. -/
theorem isReserved_decodeCop2 : (decodeCop2 w).isReserved =
    (decide ((rsOf w).toNat < 0x10) && !legalCopMove.contains (rsOf w).toNat) := by
  unfold decodeCop2
  rw [coOf_eq_decide]
  by_cases hco : 0x10 ≤ (rsOf w).toNat
  · rw [if_pos (decide_eq_true hco), decide_eq_false (by omega)]; rfl
  · rw [if_neg (by simpa using hco), decide_eq_true (by omega)]
    split
    case h_5 =>
      generalize rsOf w = r at *
      revert r
      decide
    all_goals (rename_i hr; rw [hr]; rfl)

theorem isReserved_decode : (decode w).isReserved = reservedWord w := by
  rw [reservedWord_eq]
  unfold decode
  split
  case h_1 hop => rw [isReserved_decodeSpecial, hop]; simp [reservedPrimary]
  case h_2 hop => rw [isReserved_decodeBcond, hop]; simp [reservedPrimary]
  case h_17 hop =>
    rw [isReserved_decodeCop0, hop]
    by_cases hco : 0x10 ≤ (rsOf w).toNat
    · simp [reservedPrimary, hco, Nat.not_lt.2 hco]
    · simp [reservedPrimary, hco, Nat.not_le.1 hco]
  case h_19 hop => rw [isReserved_decodeCop2, hop]; simp [reservedPrimary]
  case h_41 =>
    rcases primary_rows (opcodeOf w) with reserved | row
    · rw [reserved]; rfl
    · simp_all
  all_goals (rename_i hop; rw [hop]; rfl)

end

/-- Settles O3: table by table, the rows that the decoder leaves out are the values that R261 lists. -/
theorem decodeRejectsExactlyReservedWords : Obligations.DecodeRejectsExactlyReservedWords := by
  unfold Obligations.DecodeRejectsExactlyReservedWords
  intro w
  rw [← isReserved_iff, isReserved_decode]

/-- Settles O4: thirteen closed words. -/
theorem writtenWordsDecode : Obligations.WrittenWordsDecode := by
  unfold Obligations.WrittenWordsDecode
  decide

theorem wordOfBytes_byteOf (w : Word) :
    wordOfBytes (Machine.byteOf w 0) (Machine.byteOf w 1) (Machine.byteOf w 2) (Machine.byteOf w 3) = w := by
  refine BitVec.eq_of_getLsbD_eq fun i hi => ?_
  simp only [wordOfBytes, BitVec.getLsbD_append, Machine.getLsbD_byteOf]
  split_ifs <;> grind

theorem decodeBytes_of_instr {w : Word} {i : Instr} (h : decode w = .instr i) (rest : List Byte) :
    decodeBytes (Machine.byteOf w 0 :: Machine.byteOf w 1 :: Machine.byteOf w 2 :: Machine.byteOf w 3 :: rest)
      = .ok (i, rest) := by
  rw [decodeBytes, wordOfBytes_byteOf, h]

theorem decodeBytes_of_reserved {w : Word} {why : Reserved} (h : decode w = .reserved why) (rest : List Byte) :
    decodeBytes (Machine.byteOf w 0 :: Machine.byteOf w 1 :: Machine.byteOf w 2 :: Machine.byteOf w 3 :: rest)
      = .error (.reserved why) := by
  rw [decodeBytes, wordOfBytes_byteOf, h]

/-- Settles O5: the four bytes of a word compose to it again, and a shorter list has no fourth byte. -/
theorem bytesDecodeAsLittleEndianWord : Obligations.BytesDecodeAsLittleEndianWord := by
  unfold Obligations.BytesDecodeAsLittleEndianWord
  refine ⟨fun w rest => ?_, fun bs short => ?_⟩
  · cases hd : decode w with
    | instr i => exact decodeBytes_of_instr hd rest
    | reserved why => exact decodeBytes_of_reserved hd rest
  · match bs, short with
    | [], _ | [_], _ | [_, _], _ | [_, _, _], _ => rfl

end Sys2Proof

/-! Routing and the bus (20_memory.md). A virtual address is a physical offset in one of three segments or an address of
KSEG2; all bounds of the map, of a well-formed claim too, are bounds of aligned words, so the bytes of one aligned word
go to one target. -/

namespace Sys2Proof.Machine

/-! ### The address map (R151 to R162) -/

/-- `addr` is the physical offset `p` seen through KUSEG, KSEG0 or KSEG1 (R151, R152). -/
def IsPhysical (addr : Word) (p : Nat) : Prop :=
  addr.toNat = p ∧ p < 0x80000000 ∨ addr.toNat = 0x80000000 + p ∧ p < 0x20000000
    ∨ addr.toNat = 0xA0000000 + p ∧ p < 0x20000000

theorem route_of_isPhysical {addr : Word} {p : Nat} (h : IsPhysical addr p) (claims : List IoClaim) :
    route claims addr = routePhysical claims p := by
  unfold route
  rw [segmentOf_eq]
  rcases h with ⟨e, small⟩ | ⟨e, small⟩ | ⟨e, small⟩
  · rw [if_pos (by omega), e]
  · rw [if_neg (by omega), if_pos (by omega), e, Nat.add_sub_cancel_left]
  · rw [if_neg (by omega), if_neg (by omega), if_pos (by omega), e, Nat.add_sub_cancel_left]

theorem route_kseg2 {addr : Word} (h : 0xC0000000 ≤ addr.toNat) (claims : List IoClaim) :
    route claims addr =
      if 0xFFFE0000 ≤ addr.toNat ∧ addr.toNat ≤ 0xFFFE01FF then some (.storage addr.toNat) else none := by
  unfold route
  rw [segmentOf_eq, if_neg (by omega), if_neg (by omega), if_neg (by omega)]

theorem isPhysical_or_kseg2 (addr : Word) : (∃ p, IsPhysical addr p) ∨ 0xC0000000 ≤ addr.toNat := by
  by_cases kuseg : addr.toNat < 0x80000000
  · exact .inl ⟨addr.toNat, .inl ⟨rfl, kuseg⟩⟩
  by_cases kseg0 : addr.toNat < 0xA0000000
  · exact .inl ⟨addr.toNat - 0x80000000, .inr (.inl (by omega))⟩
  by_cases kseg1 : addr.toNat < 0xC0000000
  · exact .inl ⟨addr.toNat - 0xA0000000, .inr (.inr (by omega))⟩
  · exact .inr (by omega)

/-- The claim holds the offset (R158). -/
def holdsOffset (p : Nat) (c : IoClaim) : Bool := decide (c.first ≤ p) && decide (p ≤ c.last)

theorem holdsOffset_iff (p : Nat) (c : IoClaim) : holdsOffset p c = true ↔ c.first ≤ p ∧ p ≤ c.last := by
  rw [holdsOffset, Bool.and_eq_true, decide_eq_true_eq, decide_eq_true_eq]

section
variable {claims : List IoClaim} {p : Nat}

theorem routePhysical_ram (h : p ≤ 0x007FFFFF) : routePhysical claims p = some (.storage (p % 0x200000)) := if_pos h

theorem routePhysical_exp1 (h : 0x1F000000 ≤ p ∧ p ≤ 0x1F7FFFFF) : routePhysical claims p = some (.device .exp1 p) := by
  rw [routePhysical, if_neg (by omega), if_pos h]

theorem routePhysical_scratchpad (h : 0x1F800000 ≤ p ∧ p ≤ 0x1F8003FF) :
    routePhysical claims p = some (.storage p) := by
  rw [routePhysical, if_neg (by omega), if_neg (by omega), if_pos h]

theorem routePhysical_io (h : 0x1F801000 ≤ p ∧ p ≤ 0x1F802FFF) : routePhysical claims p = routeIo claims p := by
  rw [routePhysical, if_neg (by omega), if_neg (by omega), if_neg (by omega), if_pos h]

theorem routePhysical_bios (h : 0x1FC00000 ≤ p ∧ p ≤ 0x1FC7FFFF) : routePhysical claims p = some (.rom p) := by
  rw [routePhysical, if_neg (by omega), if_neg (by omega), if_neg (by omega), if_neg (by omega), if_pos h]

theorem routePhysical_unmapped (h : 0x007FFFFF < p ∧ p < 0x1F000000 ∨ 0x1F8003FF < p ∧ p < 0x1F801000
    ∨ 0x1F802FFF < p ∧ p < 0x1FC00000 ∨ 0x1FC7FFFF < p) : routePhysical claims p = none := by
  rw [routePhysical, if_neg (by omega), if_neg (by omega), if_neg (by omega), if_neg (by omega), if_neg (by omega)]

theorem routeIo_interrupts (h : 0x1F801070 ≤ p ∧ p ≤ 0x1F801077) :
    routeIo claims p = some (.interrupts (p - 0x1F801070)) := if_pos h

/-- Outside the interrupt registers the first claim that holds the offset answers (R158, log 4). -/
theorem routeIo_claims (h : ¬ (0x1F801070 ≤ p ∧ p ≤ 0x1F801077)) : routeIo claims p =
    (claims.find? (holdsOffset p)).map fun c => .device c.device p := by
  have holds : (fun c : IoClaim => decide (c.first ≤ p) && decide (p ≤ c.last)) = holdsOffset p := rfl
  rw [routeIo, if_neg h, holds]
  cases claims.find? (holdsOffset p) <;> rfl

end

/-- Settles O18: each range is one branch of `routePhysical`, and a device answers by the claim that is found. -/
theorem addressMap : Obligations.AddressMap := by
  unfold Obligations.AddressMap
  intro claims addr p
  refine ⟨fun physical => ?_, fun window => ?_, fun ⟨kseg2, outside⟩ => ?_⟩
  · rw [route_of_isPhysical physical claims]
    refine ⟨routePhysical_ram, routePhysical_exp1, routePhysical_scratchpad, fun h => ?_, fun ⟨low, high, other⟩ => ?_,
      routePhysical_bios, routePhysical_unmapped⟩
    · rw [routePhysical_io (by omega), routeIo_interrupts h]
    · rw [routePhysical_io ⟨low, high⟩, routeIo_claims other]
      refine ⟨fun d found => ?_, fun unclaimed => ?_, fun ⟨c, hc, holds⟩ => ?_⟩
      · obtain ⟨c, hc, e⟩ := Option.map_eq_some_iff.1 found
        injection e with e
        exact ⟨c, List.mem_of_find?_eq_some hc, e, (holdsOffset_iff p c).1 (List.find?_some hc)⟩
      · rw [List.find?_eq_none.2 fun c hc => mt (holdsOffset_iff p c).1 (unclaimed c hc)]
        rfl
      · obtain ⟨c', hc'⟩ := Option.isSome_iff_exists.1 (List.find?_isSome.2 ⟨c, hc, (holdsOffset_iff p c).2 holds⟩)
        exact ⟨c'.device, by rw [hc']; rfl⟩
  · rw [route_kseg2 (by omega), if_pos window]
  · rw [route_kseg2 kseg2, if_neg outside]

/-! ### One routing decision for an aligned word (R163) -/

/-- The target `j` locations further. -/
def Target.plus : Target → Nat → Target
  | .storage loc, j => .storage (loc + j)
  | .rom loc, j => .rom (loc + j)
  | .interrupts k, j => .interrupts (k + j)
  | .device d p, j => .device d (p + j)

theorem wordBounds_of_wf {c : IoClaim} (h : c.wf = true) : c.first % 4 = 0 ∧ c.last % 4 = 3 := by
  simp only [IoClaim.wf, Bool.and_eq_true, beq_iff_eq] at h
  obtain ⟨⟨⟨⟨⟨-, first⟩, last⟩, -⟩, -⟩, -⟩ := h
  exact ⟨first, last⟩

section
variable {claims : List IoClaim} (wf : ∀ c ∈ claims, c.wf = true) {p j : Nat} (within : p % 4 + j < 4)
include wf within

theorem find?_holdsOffset_add : claims.find? (holdsOffset (p + j)) = claims.find? (holdsOffset p) := by
  refine List.find?_congr fun c hc => ?_
  obtain ⟨first, last⟩ := wordBounds_of_wf (wf c hc)
  rw [Bool.eq_iff_iff, holdsOffset_iff, holdsOffset_iff]
  omega

theorem routeIo_add : routeIo claims (p + j) = (routeIo claims p).map (·.plus j) := by
  by_cases interrupts : 0x1F801070 ≤ p ∧ p ≤ 0x1F801077
  · rw [routeIo_interrupts interrupts, routeIo_interrupts (by omega), Nat.sub_add_comm interrupts.1]
    rfl
  · rw [routeIo_claims interrupts, routeIo_claims (by omega), find?_holdsOffset_add wf within, Option.map_map]
    rfl

theorem routePhysical_add : routePhysical claims (p + j) = (routePhysical claims p).map (·.plus j) := by
  by_cases ram : p ≤ 0x007FFFFF
  · rw [routePhysical_ram ram, routePhysical_ram (by omega), show (p + j) % 0x200000 = p % 0x200000 + j by omega]
    rfl
  by_cases exp1 : 0x1F000000 ≤ p ∧ p ≤ 0x1F7FFFFF
  · rw [routePhysical_exp1 exp1, routePhysical_exp1 (by omega)]
    rfl
  by_cases scratchpad : 0x1F800000 ≤ p ∧ p ≤ 0x1F8003FF
  · rw [routePhysical_scratchpad scratchpad, routePhysical_scratchpad (by omega)]
    rfl
  by_cases io : 0x1F801000 ≤ p ∧ p ≤ 0x1F802FFF
  · rw [routePhysical_io io, routePhysical_io (by omega), routeIo_add wf within]
  by_cases bios : 0x1FC00000 ≤ p ∧ p ≤ 0x1FC7FFFF
  · rw [routePhysical_bios bios, routePhysical_bios (by omega)]
    rfl
  · rw [routePhysical_unmapped (by omega), routePhysical_unmapped (by omega)]
    rfl

end

theorem toNat_add_within {addr : Word} {j : Nat} (within : addr.toNat % 4 + j < 4) :
    (addr + BitVec.ofNat 32 j).toNat = addr.toNat + j := by
  have := addr.isLt
  rw [BitVec.toNat_add, BitVec.toNat_ofNat]
  omega

/-- A byte of the same word is routed to the same target. -/
theorem route_add {claims : List IoClaim} (wf : ∀ c ∈ claims, c.wf = true) {addr : Word} {j : Nat}
    (within : addr.toNat % 4 + j < 4) :
    route claims (addr + BitVec.ofNat 32 j) = (route claims addr).map (·.plus j) := by
  have next := toNat_add_within within
  rcases isPhysical_or_kseg2 addr with ⟨p, physical⟩ | kseg2
  · have physical' : IsPhysical (addr + BitVec.ofNat 32 j) (p + j) := by
      unfold IsPhysical at physical ⊢
      omega
    have within' : p % 4 + j < 4 := by
      unfold IsPhysical at physical
      omega
    rw [route_of_isPhysical physical, route_of_isPhysical physical', routePhysical_add wf within']
  · rw [route_kseg2 kseg2, route_kseg2 (by omega), next]
    by_cases window : 0xFFFE0000 ≤ addr.toNat ∧ addr.toNat ≤ 0xFFFE01FF
    · rw [if_pos window, if_pos (by omega)]
      rfl
    · rw [if_neg window, if_neg (by omega)]
      rfl

/-- Settles O19: an aligned access stays inside one word. -/
theorem oneRoutingDecisionServesAllBytes : Obligations.OneRoutingDecisionServesAllBytes := by
  unfold Obligations.OneRoutingDecisionServesAllBytes
  intro claims addr w j wf aligned hj
  have within : addr.toNat % 4 + j < 4 := by cases w <;> simp only [Width.bytes] at aligned hj <;> omega
  rw [route_add wf within]
  cases route claims addr with
  | none => rfl
  | some tgt => cases tgt <;> rfl

/-! ### The bus (R163, R164) -/

theorem Width.bytes_le (w : Width) : w.bytes ≤ 4 := by cases w <;> decide

theorem byteOf_and_fieldMask (v : Word) {n : Nat} (hn : n ≤ 4) (j : Nat) :
    byteOf (v &&& fieldMask 0 (8 * n)) j = if j < n then byteOf v j else 0#8 := by
  refine BitVec.eq_of_getLsbD_eq fun i hi => ?_
  rw [getLsbD_byteOf, BitVec.getLsbD_and, getLsbD_fieldMask _ _ _ (by omega), decide_eq_true hi, Bool.true_and]
  by_cases low : j < n
  · rw [if_pos low, getLsbD_byteOf, decide_eq_true hi, decide_eq_true (by omega), decide_eq_true (by omega)]
    simp
  · rw [if_neg low, decide_eq_false (show ¬ 8 * j + i < 0 + 8 * n by omega)]
    simp

theorem byteOf_busRead_storage (loc : Nat) (w : Width) (s : State) (j : Nat) :
    byteOf (busRead (.storage loc) w s).1 j = if j < w.bytes then s.mem.read (loc + j) else 0#8 := by
  have := w.bytes_le
  rw [busRead, byteOf_composeBytes]
  exact if_congr (by omega) rfl rfl

/-- A device read or write, and a coprocessor-2 operation, leave all but the record of the agents. -/
theorem onlyAgents_events (s : State) (e : List ExternalEvent) (d : Nat) :
    OnlyAgents s { s with events := e, draws := d } :=
  ⟨⟨rfl, rfl, rfl⟩, ⟨rfl, rfl⟩, ⟨rfl, rfl, rfl, rfl, rfl, rfl, rfl⟩, ⟨rfl, rfl⟩, fun _ => rfl, ⟨rfl, rfl⟩, fun _ => rfl,
    ⟨rfl, rfl⟩⟩

/-- Settles O20: the bytes of the composed word, and for a device the low bytes of its answer. -/
theorem busReads : Obligations.BusReads := by
  unfold Obligations.BusReads
  intro w s
  exact ⟨fun loc => ⟨rfl, rfl, byteOf_busRead_storage loc w s⟩, fun k => ⟨rfl, byteOf_busRead_interrupts k w s⟩,
    fun d p => ⟨rfl, rfl, onlyAgents_events s _ _, byteOf_and_fieldMask _ w.bytes_le⟩⟩

/-- A store changes the named bytes of storage and nothing else. -/
theorem onlyMemory_busWrite_storage {s : State} (wf : s.mem.wf) (loc : Nat) (w : Width) (v : Word) :
    OnlyMemory (BytesStored loc w.bytes v) s (busWrite (.storage loc) w v s) := by
  refine ⟨fun a => ?_, ⟨rfl, rfl, rfl⟩, ⟨rfl, rfl⟩, ⟨rfl, rfl, rfl, rfl, rfl, rfl, rfl⟩, ⟨rfl, rfl⟩, fun _ => rfl,
    ⟨rfl, rfl⟩, ⟨rfl, rfl, rfl, rfl⟩⟩
  rw [← byteOf_eq_shift]
  exact Memory.read_writeBytes s.mem w.bytes loc v a wf

/-- Settles O21: a store by `read_writeBytes`, a BIOS write by definition, a device write with the low bytes of `v`. -/
theorem busWrites : Obligations.BusWrites := by
  unfold Obligations.BusWrites
  intro w v s
  exact ⟨fun loc wf => onlyMemory_busWrite_storage wf loc w v, fun _ => rfl,
    fun d p => ⟨_, rfl, byteOf_and_fieldMask v w.bytes_le, rfl, onlyAgents_events s _ s.draws⟩⟩

end Sys2Proof.Machine

/-! The tick (60_exceptions.md R630 to R636). `beginTick_eq` says in one equation what the beginning of a tick does, and
its fields are read off it; what replaces the instruction is decided by `pendingException` alone. -/

namespace Sys2Proof.Machine

/-! ### Promote, fetch, sample -/

theorem busRead_promote (tgt : Target) (w : Width) (s : State) :
    busRead tgt w (promote s) = ((busRead tgt w s).1, promote (busRead tgt w s).2) := by
  cases tgt <;> rfl

/-- The fetch reads nothing that promotion changes (R631, R632). -/
theorem fetch_promote (addr : Word) (s : State) :
    fetch addr (promote s) = ((fetch addr s).1, (fetch addr s).2.1, promote (fetch addr s).2.2) := by
  have mode : privileged (promote s) addr = privileged s addr := rfl
  unfold fetch
  rw [mode, promote_ioClaims]
  split_ifs
  · rfl
  · rfl
  · cases route s.ioClaims addr with
    | none => rfl
    | some tgt => simp only [busRead_promote]

/-- The state in which the interrupts are sampled: promoted, and `f` in the latch as the fetched word and its tag. -/
def fetched (f : Word × FetchFault × State) (s : State) : State :=
  { s with
    currentPc := s.nextInstructionPc
    currentInstruction := s.nextInstruction
    currentFault := s.nextInstructionFault
    inDelaySlot := s.branchTaken
    branchTaken := false
    nextInstruction := f.1
    nextInstructionFault := f.2.1
    nextInstructionPc := s.nextPc
    nextPc := s.nextPc + 4#32
    events := f.2.2.events
    draws := f.2.2.draws }

theorem beginTick_eq (s : State) : beginTick s = sampleInterrupt (fetched (fetch s.nextPc s) s) := by
  obtain ⟨e, d, agents⟩ := fetch_eq s.nextPc s
  rw [beginTick, fetchNext, promote_nextPc, fetch_promote, fetched, agents]
  rfl

section
variable (s : State)

@[simp] theorem beginTick_s1 : (beginTick s).s1 = s.s1 := by rw [beginTick_eq]; rfl
@[simp] theorem beginTick_s2 : (beginTick s).s2 = s.s2 := by rw [beginTick_eq]; rfl
@[simp] theorem beginTick_s3 : (beginTick s).s3 = s.s3 := by rw [beginTick_eq]; rfl
@[simp] theorem beginTick_currentPc : (beginTick s).currentPc = s.nextInstructionPc := by rw [beginTick_eq]; rfl
@[simp] theorem beginTick_nextInstruction : (beginTick s).nextInstruction = (fetch s.nextPc s).1 := by
  rw [beginTick_eq]; rfl
@[simp] theorem beginTick_nextInstructionFault : (beginTick s).nextInstructionFault = (fetch s.nextPc s).2.1 := by
  rw [beginTick_eq]; rfl
@[simp] theorem beginTick_nextInstructionPc : (beginTick s).nextInstructionPc = s.nextPc := by rw [beginTick_eq]; rfl
@[simp] theorem beginTick_nextPc : (beginTick s).nextPc = s.nextPc + 4#32 := by rw [beginTick_eq]; rfl
@[simp] theorem beginTick_mem : (beginTick s).mem = s.mem := by rw [beginTick_eq]; rfl

theorem cp0Reg_beginTick (n : RegIdx) : (beginTick s).cp0Reg n =
    if n = 13#5 then sampleCause s.cause (interruptRequest s.iStat s.iMask) else s.cp0Reg n := by
  rw [beginTick_eq, sampleInterrupt, cp0Reg_writeCp0]; rfl

@[simp] theorem sr_beginTick : (beginTick s).sr = s.sr := by
  rw [State.sr, cp0Reg_beginTick, if_neg (by decide)]; rfl

theorem cause_beginTick : (beginTick s).cause = sampleCause s.cause (interruptRequest s.iStat s.iMask) := by
  rw [State.cause, cp0Reg_beginTick, if_pos rfl]

theorem interruptRequest_eq_decide : interruptRequest s.iStat s.iMask = decide (s.iStat &&& s.iMask ≠ 0#11) := by
  rw [interruptRequest, bne, beq_eq_decide, decide_not]

end

/-- Settles O43: every field of the state in which the instruction is selected. -/
theorem tickBegins : Obligations.TickBegins := by
  unfold Obligations.TickBegins
  intro s
  refine ⟨_, rfl, _, rfl, ?fields⟩
  case fields =>
    have cause : ∀ i, (beginTick s).cause.getLsbD i =
        if i = 10 then decide (s.iStat &&& s.iMask ≠ 0#11) else s.cause.getLsbD i := fun i => by
      rw [cause_beginTick, getLsbD_sampleCause, interruptRequest_eq_decide]
    have kept : Cp0SameBut (fun n => n = 13#5) s (beginTick s) := fun n other => by
      rw [cp0Reg_beginTick, if_neg other]
    rw [beginTick_eq] at cause kept ⊢
    exact ⟨rfl, rfl, rfl, rfl, rfl, rfl, rfl, rfl, rfl, cause, kept, ⟨rfl, rfl, rfl⟩, ⟨rfl, rfl⟩, ⟨rfl, rfl⟩,
      fun _ => rfl, ⟨rfl, rfl⟩, rfl, rfl⟩

/-! ### The fetch (20_memory.md R167) -/

theorem fetch_of_forbidden {s : State} {addr : Word} (h : ¬ Permitted s addr .word) :
    fetch addr s = (0#32, .adEL, s) := by
  unfold fetch
  split_ifs with mis priv
  · rfl
  · rfl
  · exact absurd ⟨(misaligned_eq_false ..).1 (Bool.eq_false_iff.2 mis),
      (privileged_eq_false ..).1 (Bool.eq_false_iff.2 priv)⟩ h

theorem fetch_of_permitted {s : State} {addr : Word} (h : Permitted s addr .word) : fetch addr s =
    match route s.ioClaims addr with
    | none => (0#32, .ibe, s)
    | some tgt => ((busRead tgt .word s).1, .none, (busRead tgt .word s).2) := by
  unfold fetch
  rw [(misaligned_eq_false ..).2 h.1, (privileged_eq_false ..).2 h.2]
  rfl

/-- Settles O44: the checks of the fetch are those of a word access but for isolation. -/
theorem fetchResults : Obligations.FetchResults := by
  unfold Obligations.FetchResults
  refine fun addr s => ⟨fetch_of_forbidden, fun ⟨permitted, unmapped⟩ => ?_, fun tgt ⟨permitted, routed⟩ => ?_⟩
  · rw [fetch_of_permitted permitted, unmapped]
  · rw [fetch_of_permitted permitted, routed]

/-- A word that carries a tag is 0, and only an aligned address gives another tag than AdEL (10_state.md R63). -/
theorem fetch_tags (addr : Word) (s : State) :
    ((fetch addr s).2.1 ≠ .none → (fetch addr s).1 = 0#32)
      ∧ (addr.toNat % 4 ≠ 0 → (fetch addr s).2.1 = .adEL) := by
  by_cases permitted : Permitted s addr .word
  · refine ⟨fun tagged => ?_, fun mis => absurd permitted.1 mis⟩
    rw [fetch_of_permitted permitted] at tagged ⊢
    cases hr : route s.ioClaims addr with
    | none => rfl
    | some tgt => rw [hr] at tagged; exact absurd rfl tagged
  · rw [fetch_of_forbidden permitted]
    exact ⟨fun _ => rfl, fun _ => rfl⟩

/-! ### What replaces the instruction (60_exceptions.md R634, R647) -/

/-- Some pending bit of Cause.IP has its enabling bit in SR.IM. -/
def PendingAndMaskedIn (sr cause : Word) : Prop :=
  ∃ i, 8 ≤ i ∧ i ≤ 15 ∧ cause.getLsbD i = true ∧ sr.getLsbD i = true

theorem interruptEnabled_iff (sr cause : Word) :
    interruptEnabled sr cause = true ↔ sr.getLsbD 0 = true ∧ PendingAndMaskedIn sr cause := by
  rw [interruptEnabled, srIEc, Bool.and_eq_true, bne_iff_ne]
  refine and_congr_right fun _ => ⟨fun nonzero => ?_, fun ⟨i, low, high, pending, enabled⟩ zero => ?_⟩
  · by_contra quiet
    refine nonzero (BitVec.eq_of_getLsbD_eq fun i hi => ?_)
    rw [BitVec.getLsbD_and, BitVec.getLsbD_extractLsb', BitVec.getLsbD_extractLsb', decide_eq_true hi, Bool.true_and,
      Bool.true_and, BitVec.getLsbD_zero, Bool.and_eq_false_iff, ← Bool.not_eq_true, ← Bool.not_eq_true, ← not_and_or]
    exact fun both => quiet ⟨8 + i, by omega, by omega, both⟩
  · have bit := congrArg (·.getLsbD (i - 8)) zero
    simp [show i - 8 < 8 by omega, show 8 + (i - 8) = i by omega, pending, enabled] at bit

theorem step_of_interrupt {s : State} (h : interruptEnabled (beginTick s).sr (beginTick s).cause = true) :
    step s = finishStep (.next (enterException .int (beginTick s))) := by
  rw [step, selectAndExecute, pendingException, if_pos h]
  rfl

theorem pendingException_of_disabled {s : State} (h : interruptEnabled s.sr s.cause = false) :
    pendingException s =
      match s.currentFault with
      | .adEL => some (.adEL s.currentPc)
      | .ibe => some .ibe
      | .none => none := by
  unfold pendingException
  rw [h]
  rfl

/-- No enabled interrupt, in the words of the statements. -/
theorem interruptEnabled_eq_false {sr cause : Word} (h : sr.getLsbD 0 = false
      ∨ ∀ i, 8 ≤ i → i ≤ 15 → ¬ (cause.getLsbD i = true ∧ sr.getLsbD i = true)) :
    interruptEnabled sr cause = false := by
  refine Bool.eq_false_iff.2 fun enabled => ?_
  obtain ⟨iec, i, low, high, both⟩ := (interruptEnabled_iff sr cause).1 enabled
  rcases h with off | quiet
  · exact absurd iec (by rw [off]; decide)
  · exact quiet i low high both

/-- Settles O45: the interrupt is looked for before the fetch fault and the word. -/
theorem interruptReplacesInstruction : Obligations.InterruptReplacesInstruction := by
  unfold Obligations.InterruptReplacesInstruction
  exact fun s iec pending => step_of_interrupt ((interruptEnabled_iff ..).2 ⟨iec, pending⟩)

/-- Settles O46: the tag and the address of the latch are those of the current instruction after promotion. -/
theorem fetchFaultReplacesInstruction : Obligations.FetchFaultReplacesInstruction := by
  unfold Obligations.FetchFaultReplacesInstruction
  intro s quiet
  have pending := pendingException_of_disabled (interruptEnabled_eq_false quiet)
  rw [beginTick_currentFault] at pending
  refine ⟨fun tag => ?_, fun tag => ?_⟩
  · rw [tag, beginTick_currentPc] at pending
    rw [step, selectAndExecute, pending]
    rfl
  · rw [tag] at pending
    rw [step, selectAndExecute, pending]
    rfl

theorem step_of_no_exception {s : State} (h : pendingException (beginTick s) = none) :
    step s = finishStep (execute (beginTick s)) := by
  rw [step, selectAndExecute, h]

/-! ### Reserved words (30_encoding.md R261) -/

/-- The opcode of the coprocessor forms of a reserved word (44_system_cop.md R579, R580). -/
def copOpcode : Reserved → Option (BitVec 6)
  | .cop0Move _ | .cop0Operation _ => some 0x10#6
  | .cop2Move _ => some 0x12#6
  | .primary _ | .special _ | .bcond _ => none

theorem opcodeOf_of_decode_reserved {w : Word} {why : Reserved} (h : decode w = .reserved why) :
    ∀ op, copOpcode why = some op → opcodeOf w = op := by
  unfold decode at h
  split at h
  case h_1 =>
    unfold decodeSpecial at h
    split at h
    all_goals cases h
    nofun
  case h_2 =>
    unfold decodeBcond at h
    split at h
    all_goals cases h
    nofun
  case h_17 hop =>
    unfold decodeCop0 at h
    split_ifs at h
    · cases h
      exact fun _ e => hop.trans (Option.some.inj e)
    · split at h
      all_goals cases h
      exact fun _ e => hop.trans (Option.some.inj e)
  case h_19 hop =>
    unfold decodeCop2 at h
    split_ifs at h
    split at h
    all_goals cases h
    exact fun _ e => hop.trans (Option.some.inj e)
  all_goals cases h
  nofun

theorem execute_of_reserved {s : State} (reserved : reservedWord s.currentInstruction = true)
    (cop0 : opcodeOf s.currentInstruction = 0x10#6 → Cop0Usable s)
    (cop2 : opcodeOf s.currentInstruction = 0x12#6 → srCu2 s.sr = true) :
    execute s = .next (enterException .ri s) := by
  rw [← isReserved_decode, isReserved_iff] at reserved
  obtain ⟨why, hd⟩ := reserved
  have opcode := opcodeOf_of_decode_reserved hd
  unfold execute
  rw [hd]
  cases why with
  | primary | special | bcond => rfl
  | cop0Move | cop0Operation => exact withCop_zero_of_usable (cop0 (opcode _ rfl)) _
  | cop2Move => exact withCop_two_of_usable (cop2 (opcode _ rfl)) _

/-- Settles O40: a reserved word runs `execReserved`, whose check, if any, passes. -/
theorem reservedWordsRaiseRi : Obligations.ReservedWordsRaiseRi := by
  unfold Obligations.ReservedWordsRaiseRi
  exact fun s => execute_of_reserved

/-- Settles O47: nothing replaces the latched word, and `execute` runs it as decoded or as a reserved word. -/
theorem stepRunsDecodedInstruction : Obligations.StepRunsDecodedInstruction := by
  unfold Obligations.StepRunsDecodedInstruction
  intro s quiet tag
  have latched := beginTick_currentInstruction s
  have pending := pendingException_of_disabled (interruptEnabled_eq_false quiet)
  rw [beginTick_currentFault, tag] at pending
  have runs := step_of_no_exception pending
  refine ⟨fun i hi => ?_, fun reserved cop0 cop2 => ?_, runs, latched⟩
  · rw [runs, execute, latched, hi]
  · rw [← latched] at reserved cop0 cop2
    rw [runs, execute_of_reserved reserved cop0 cop2]

/-! ### The end of the tick (60_exceptions.md R636) -/

/-- Settles O48: `endTick` field by field. -/
theorem tickEnds : Obligations.TickEnds := by
  unfold Obligations.TickEnds
  exact fun s => ⟨endTick s, finishStep_next s, rfl, rfl, rfl, rfl, ⟨rfl, rfl⟩, ⟨rfl, rfl⟩, fun _ => rfl, ⟨rfl, rfl⟩,
    fun _ => rfl, ⟨rfl, rfl, rfl, rfl⟩, rfl, rfl, rfl, rfl, rfl, rfl, fun idle => envStep_nil (s := endTick s) idle⟩

/-- Settles O42: the entry gives kernel mode, so RFE may run, and the pop undoes the push on SR[3:0]. -/
theorem rfeAfterEntryRestoresCurrentAndPreviousPairs :
    Obligations.RfeAfterEntryRestoresCurrentAndPreviousPairs := by
  unfold Obligations.RfeAfterEntryRestoresCurrentAndPreviousPairs
  intro e s
  have kernel : Cop0Usable (enterException e s) := .inl (by rw [sr_enterException, srKUc_pushModeStack])
  refine ⟨_, withCop_zero_of_usable kernel _, fun i => ?_, ?_⟩
  · rw [State.sr, returnFromException, cp0Reg_writeCp0, if_pos rfl, sr_enterException, getLsbD_popModeStack,
      getLsbD_pushModeStack, getLsbD_pushModeStack]
    grind
  · obtain ⟨⟨-, others⟩, rest⟩ := onlyCp0_writeCp0 (enterException e s) 12#5 (popModeStack (enterException e s).sr)
    exact ⟨others, rest⟩

end Sys2Proof.Machine

/-! The environment and reset (20_memory.md R181, 70_reset_and_hazards.md R730 to R734), and what the whole machine
keeps. An instruction changes storage only through `Memory.writeBytes` at a permitted, routed address
(`Change.mem_induct`), so what is kept of storage is shown for that write alone. -/

namespace Sys2Proof.Machine

/-! ### Every instruction completes (60_exceptions.md R635, R674) -/

/-- The meaning answers a next state. -/
def Completes (r : Result) : Prop := ∃ t, r = .next t

theorem completes_writeOrOverflow (overflow : Bool) (r : RegIdx) (v : Word) (s : State) :
    Completes (writeOrOverflow overflow r v s) := by
  unfold writeOrOverflow
  split <;> exact ⟨_, rfl⟩

theorem completes_withLoad (report addr : Word) (w : Width) (s : State) (use : Word → State → State) :
    Completes (withLoad report addr w s use) := by
  rcases withLoad_cases report addr w s use with ⟨_, h⟩ | h | ⟨_, _, h⟩ <;> exact ⟨_, h⟩

theorem completes_loadInto (rt : RegIdx) (addr : Word) (w : Width) (extend : Word → Word) (s : State) :
    Completes (loadInto rt addr w extend s) := completes_withLoad ..

theorem completes_loadMerge (rt : RegIdx) (addr : Word) (merge : Nat → Word → Word → Word) (s : State) :
    Completes (loadMerge rt addr merge s) := completes_withLoad ..

theorem completes_storeWord (addr : Word) (w : Width) (v : Word) (s : State) : Completes (storeWord addr w v s) := by
  rcases storeWord_cases addr w v s with ⟨_, h⟩ | h | ⟨_, _, h⟩ <;> exact ⟨_, h⟩

theorem completes_storePartial (ea : Word) (bytes : List (Word × Byte)) (s : State) :
    Completes (storePartial ea bytes s) := by
  rcases storePartial_cases ea bytes s with ⟨_, h⟩ | ⟨_, _, h⟩ <;> exact ⟨_, h⟩

theorem completes_storeCop2 (rt : RegIdx) (addr : Word) (s : State) : Completes (storeCop2 rt addr s) := by
  unfold storeCop2
  cases checkAccess .store addr addr .word s <;> exact ⟨_, rfl⟩

theorem completes_withCop {z : BitVec 2} {s : State} {action : Result} (h : Completes action) :
    Completes (withCop z s action) := by
  rcases withCop_cases z s action with ⟨_, h'⟩ | h'
  · exact ⟨_, h'⟩
  · rw [h']
    exact h

theorem completes_exec (i : Instr) (s : State) : Completes (exec i s) := by
  cases i with
  | add | sub | addi => exact completes_writeOrOverflow ..
  | lb | lbu | lh | lhu | lw => exact completes_loadInto ..
  | lwl | lwr => exact completes_loadMerge ..
  | sb | sh | sw => exact completes_storeWord ..
  | swl | swr => exact completes_storePartial ..
  | mfc0 | cfc0 | mtc0 | ctc0 | rfe | mfc2 | cfc2 | mtc2 | ctc2 | cop2 => exact completes_withCop ⟨_, rfl⟩
  | lwc0 | lwc2 => exact completes_withCop (completes_withLoad ..)
  | swc0 => exact completes_withCop (completes_storeWord ..)
  | swc2 => exact completes_withCop (completes_storeCop2 ..)
  | _ => exact ⟨_, rfl⟩

/-- Settles O49: an exception entry is a next state, and so is the end of every instruction. -/
theorem stepAlwaysAnswersNext : Obligations.StepAlwaysAnswersNext := by
  unfold Obligations.StepAlwaysAnswersNext
  intro s
  rcases selectAndExecute_cases (beginTick s) with ⟨e, he⟩ | ⟨i, -, he⟩
  · exact ⟨_, by rw [step, he, finishStep_next]⟩
  · obtain ⟨t, ht⟩ := completes_exec i (beginTick s)
    exact ⟨_, by rw [step, he, ht, finishStep_next]⟩

/-! ### The environment (20_memory.md R181) -/

/-- Of several writes of a byte the last one wins. -/
theorem read_dmaWrites_last {m : Memory} (wf : m.wf) (before after : List (BitVec 21 × Byte)) (c : BitVec 21 × Byte)
    (last : ∀ d ∈ after, d.1 ≠ c.1) : (dmaWrites (before ++ c :: after) m).read c.1.toNat = c.2 := by
  induction before generalizing m with
  | nil =>
    rw [List.nil_append, dmaWrites, read_dmaWrites_outside _ _ _ fun d hd e => last d hd (BitVec.eq_of_toNat_eq e),
      Memory.read_write_same _ _ _ wf]
  | cons d before ih => exact ih (Memory.wf_write m _ _ wf)

/-- Settles O50: an action without reset is one update of I_STAT, the storage and the list of actions. -/
theorem environmentStep : Obligations.EnvironmentStep := by
  unfold Obligations.EnvironmentStep
  intro a rest s waiting noReset
  have acts := envStep_cons waiting
  rw [if_neg (by simp [noReset])] at acts
  rw [acts]
  refine ⟨fun i => BitVec.getLsbD_or .., rfl, fun loc => read_dmaWrites_outside a.dma s.mem loc,
    fun before c after wf split last => ?_, rfl, ⟨rfl, rfl, rfl⟩, ⟨rfl, rfl⟩, ⟨rfl, rfl, rfl, rfl, rfl, rfl, rfl⟩,
    ⟨rfl, rfl⟩, fun _ => rfl, rfl, rfl, rfl⟩
  show (dmaWrites a.dma s.mem).read c.1.toNat = c.2
  rw [split]
  exact read_dmaWrites_last wf before after c last

/-- The storage after the environment step: RAM written, then the window dropped if the action holds a reset. -/
theorem mem_envStep_cons {s : State} {a : EnvAction} {rest : List EnvAction} (h : s.env = a :: rest) :
    (envStep s).mem = if a.reset then (dmaWrites a.dma s.mem).filter (fun c => !isCacheControl c.1)
      else dmaWrites a.dma s.mem := by
  rw [envStep_cons h]
  split <;> rfl

/-- Settles O51: the event is `State.reset` in every field but five, and the window is dropped from the storage. -/
theorem resetEvent_spec : Obligations.ResetEvent := by
  unfold Obligations.ResetEvent
  refine fun s => ⟨fun loc _ => ?_, rfl, rfl, rfl, rfl, rfl⟩
  show Memory.read (s.mem.filter fun c => !isCacheControl c.1) loc = _
  by_cases window : isCacheControl loc = true
  · rw [if_pos window]
    exact Memory.read_filter_dropped s.mem (fun l => !isCacheControl l) loc (by simp [window])
  · rw [if_neg window]
    exact Memory.read_filter_kept s.mem (fun l => !isCacheControl l) loc (by simp [window])

/-! ### What a bus write keeps -/

/-- A bus write changes storage, the interrupt registers and the record of the agents, and nothing else. -/
theorem busWrite_eq (tgt : Target) (w : Width) (v : Word) (s : State) :
    ∃ m a b e, busWrite tgt w v s = { s with mem := m, iStat := a, iMask := b, events := e } := by
  rcases busWrite_cases tgt w v s with ⟨_, -, h⟩ | h | ⟨_, _, h⟩ | ⟨_, h⟩ <;> exact ⟨_, _, _, _, h⟩

/-- The same of the byte stores of SWL and SWR. -/
theorem storeBytes_eq {ea : Word} {bytes : List (Word × Byte)} {s t : State} (h : storeBytes ea bytes s = .ok t) :
    ∃ m a b e, t = { s with mem := m, iStat := a, iMask := b, events := e } := by
  refine storeBytes_induct (fun t => ∃ m a b e, t = { s with mem := m, iStat := a, iMask := b, events := e }) ea
    (fun u addr c tgt hu _ => ?_) bytes s t ⟨s.mem, s.iStat, s.iMask, s.events, rfl⟩ h
  obtain ⟨m, a, b, e, rfl⟩ := hu
  exact busWrite_eq tgt .byte (c.setWidth 32) { s with mem := m, iStat := a, iMask := b, events := e }

/-- Whether an access reaches the bus, and where, depends on SR and on the claims alone. -/
theorem reaches_congr {s u : State} (sr : u.sr = s.sr) (claims : u.ioClaims = s.ioClaims) (addr : Word) (w : Width)
    (tgt : Target) : Reaches u addr w tgt ↔ Reaches s addr w tgt := by
  simp only [Reaches, Permitted, sr, claims]

section
variable {P : Memory → Prop} {s t : State}

/-- A bus write keeps of storage what its store keeps. -/
theorem mem_busWrite {tgt : Target} {w : Width} {v : Word}
    (store : ∀ loc, tgt = .storage loc → P (s.mem.writeBytes w.bytes loc v)) (hs : P s.mem) :
    P (busWrite tgt w v s).mem := by
  rcases busWrite_cases tgt w v s with ⟨loc, rfl, h⟩ | h | ⟨_, _, h⟩ | ⟨_, h⟩ <;> rw [h]
  · exact store loc rfl
  · exact hs
  · exact hs
  · exact hs

/-- What every store at a permitted, routed address keeps of storage, every instruction keeps. -/
theorem Change.mem_induct {i : Instr} (h : Change i s t) (hs : P s.mem)
    (store : ∀ m addr w loc v, P m → Reaches s addr w (.storage loc) → P (m.writeBytes w.bytes loc v)) : P t.mem := by
  cases h with
  | stored e d addr w tgt v reaches =>
    exact mem_busWrite (s := { s with events := e, draws := d })
      (fun loc ht => store s.mem addr w loc v hs (ht ▸ reaches)) hs
  | storedBytes ea bytes _ hb =>
    refine (storeBytes_induct (fun u => P u.mem ∧ u.sr = s.sr ∧ u.ioClaims = s.ioClaims) ea
      (fun u addr b tgt ⟨hu, sr, claims⟩ reaches => ?_) bytes s t ⟨hs, rfl, rfl⟩ hb).1
    rw [reaches_congr sr claims] at reaches
    refine ⟨mem_busWrite (fun loc ht => store u.mem addr .byte loc _ hu (ht ▸ reaches)) hu, ?_⟩
    obtain ⟨m, a, b', e, h⟩ := busWrite_eq tgt .byte (b.setWidth 32) u
    rw [h]
    exact ⟨sr, claims⟩
  | _ => exact hs

end

/-! ### Where an instruction stores -/

/-- The bytes of an access that reaches storage are RAM, scratchpad, or cache-control window, and only a kernel address
reaches the last. -/
theorem storage_of_reaches {s : State} {addr : Word} {w : Width} {loc a : Nat}
    (h : Reaches s addr w (.storage loc)) (low : loc ≤ a) (high : a < loc + w.bytes) :
    a < 0x200000 ∨ (0x1F800000 ≤ a ∧ a ≤ 0x1F8003FF) ∨
      (0xFFFE0000 ≤ a ∧ a ≤ 0xFFFE01FF ∧ srKUc s.sr = false) := by
  obtain ⟨⟨aligned, mode⟩, -, routed⟩ := h
  obtain ⟨sameOffset, range⟩ := route_storage routed
  have kernel : 0x80000000 ≤ addr.toNat → srKUc s.sr = false := fun high => by
    rw [BitVec.msb_eq_decide, decide_eq_true_eq] at mode
    simpa [high] using mode
  have within : a / 4 = loc / 4 := by cases w <;> simp only [Width.bytes] at aligned high <;> omega
  by_cases window : 0x80000000 ≤ addr.toNat
  · simp only [kernel window, and_true]
    omega
  · omega

theorem isStorage_of_reaches {s : State} {addr : Word} {w : Width} {loc a : Nat}
    (h : Reaches s addr w (.storage loc)) (low : loc ≤ a) (high : a < loc + w.bytes) : isStorage a = true := by
  have := storage_of_reaches h low high
  simp only [isStorage, Bool.or_eq_true, Bool.and_eq_true, decide_eq_true_eq]
  omega

/-- A byte that no store at a permitted, routed address names is kept by every instruction. -/
theorem Change.read_mem_eq {i : Instr} {s t : State} (h : Change i s t) {a : Nat}
    (untouched : ∀ addr w loc, Reaches s addr w (.storage loc) → ¬ (loc ≤ a ∧ a < loc + w.bytes)) :
    t.mem.read a = s.mem.read a :=
  h.mem_induct (P := fun m => m.read a = s.mem.read a) rfl fun m addr w loc v hm reaches => by
    have := untouched addr w loc reaches
    rw [Memory.read_writeBytes_outside _ _ _ _ _ (by omega)]
    exact hm

/-- Settles O59: of the stored locations only those of the window need a kernel address. -/
theorem userModeKeepsCacheControl : Obligations.UserModeKeepsCacheControl := by
  unfold Obligations.UserModeKeepsCacheControl
  intro i s t a user h window
  simp only [isCacheControl, Bool.and_eq_true, decide_eq_true_eq] at window
  refine (exec_change i s t h).read_mem_eq fun addr w loc reaches ⟨low, high⟩ => ?_
  rcases storage_of_reaches reaches low high with ram | scratch | ⟨-, -, kernel⟩
  · omega
  · omega
  · simp [user] at kernel

theorem not_isCacheControl_of_isBios {a : Nat} (h : isBios a = true) : isCacheControl a = false := by
  simp only [isBios, isCacheControl, Bool.and_eq_true, Bool.and_eq_false_iff, decide_eq_true_eq,
    decide_eq_false_iff_not] at h ⊢
  omega

theorem read_bios_dmaWrites {l : List (BitVec 21 × Byte)} {m : Memory} {a : Nat} (h : isBios a = true) :
    (dmaWrites l m).read a = m.read a := by
  simp only [isBios, Bool.and_eq_true, decide_eq_true_eq] at h
  exact read_dmaWrites_outside l m a fun c _ => by have := c.1.isLt; omega

theorem read_bios_envStep {s : State} {a : Nat} (h : isBios a = true) : (envStep s).mem.read a = s.mem.read a := by
  cases actions : s.env with
  | nil => rw [envStep_nil actions]
  | cons action rest =>
    rw [mem_envStep_cons actions]
    split
    · rw [Memory.read_filter_kept _ (fun l => !isCacheControl l) a (by simp [not_isCacheControl_of_isBios h]),
        read_bios_dmaWrites h]
    · exact read_bios_dmaWrites h

theorem Change.read_bios {i : Instr} {s t : State} (h : Change i s t) {a : Nat} (bios : isBios a = true) :
    t.mem.read a = s.mem.read a := by
  simp only [isBios, Bool.and_eq_true, decide_eq_true_eq] at bios
  exact h.read_mem_eq fun addr w loc reaches ⟨low, high⟩ => by
    have := storage_of_reaches reaches low high
    omega

/-- Settles O56: no part of a step writes a BIOS location. -/
theorem biosNeverChanges : Obligations.BiosNeverChanges := by
  unfold Obligations.BiosNeverChanges
  intro s t a bios h
  have start : (beginTick s).mem.read a = s.mem.read a := by rw [beginTick_mem]
  rcases step_cases s t h with ⟨e, rfl⟩ | ⟨i, r, -, hr, rfl⟩
  · exact (read_bios_envStep bios).trans start
  · exact (read_bios_envStep bios).trans (((exec_change i _ r hr).read_bios bios).trans start)

/-! ### CP0 and the mode (60_exceptions.md R665 to R667) -/

/-- The instructions that write CP0 register `n` as their effect. -/
def WritesCp0 (i : Instr) (n : RegIdx) : Prop :=
  (i = .rfe ∧ n = 12#5) ∨ (∃ rt, i = .mtc0 rt n) ∨ (∃ rt, i = .ctc0 rt n) ∨ ∃ rs imm16, i = .lwc0 n rs imm16

/-- What an instruction does to CP0: an exception entry, nothing, or one write where coprocessor 0 may be used. -/
theorem Change.cp0_cases {i : Instr} {s t : State} (h : Change i s t) :
    (∃ e, t = enterException e s) ∨ SameCp0 s t ∨
      ∃ n v, Cop0Usable s ∧ WritesCp0 i n ∧ ∀ m, t.cp0Reg m = if m = n then v else s.cp0Reg m := by
  cases h with
  | entered e => exact .inl ⟨e, rfl⟩
  | wroteCp0 e d n v usable writes =>
    exact .inr (.inr ⟨n, v, usable, writes, fun m => cp0Reg_writeCp0 { s with events := e, draws := d } n m v⟩)
  | stored e d addr w tgt v _ =>
    obtain ⟨m, a, b, e', h⟩ := busWrite_eq tgt w v { s with events := e, draws := d }
    exact .inr (.inl (h ▸ fun _ => rfl))
  | storedBytes ea bytes _ hb =>
    obtain ⟨m, a, b, e', h⟩ := storeBytes_eq hb
    exact .inr (.inl (h ▸ fun _ => rfl))
  | _ => exact .inr (.inl fun _ => rfl)

/-- Settles O58: a write of CP0 needs kernel mode or CU0. -/
theorem userModeKeepsCp0 : Obligations.UserModeKeepsCp0 := by
  unfold Obligations.UserModeKeepsCp0
  intro i s t user noCu0 h
  rcases (exec_change i s t h).cp0_cases with entry | same | ⟨_, _, usable, -⟩
  · exact .inl entry
  · exact .inr same
  · simp [Cop0Usable, user, noCu0] at usable

theorem userMode_enterException (e : Exc) (s : State) : (enterException e s).userMode = false := by
  rw [State.userMode, sr_enterException, srKUc_pushModeStack]

theorem userMode_resetEvent (s : State) : (resetEvent s).userMode = false := by
  have kernel : State.reset.userMode = false := by decide
  exact kernel

theorem userMode_beginTick (s : State) : (beginTick s).userMode = s.userMode := by
  rw [State.userMode, sr_beginTick, State.userMode]

theorem userMode_envStep {s : State} (noReset : ∀ a rest, s.env = a :: rest → a.reset = false) :
    (envStep s).userMode = s.userMode := by
  cases actions : s.env with
  | nil => rw [envStep_nil actions]
  | cons a rest => rw [envStep_cons actions, noReset a rest actions]; rfl

theorem userMode_envStep_reset {s : State} {a : EnvAction} {rest : List EnvAction} (h : s.env = a :: rest)
    (reset : a.reset = true) : (envStep s).userMode = false := by
  rw [envStep_cons h, if_pos reset, userMode_resetEvent]

/-- An instruction that changes the mode takes an exception or writes SR. -/
theorem Change.userMode_cases {i : Instr} {s t : State} (h : Change i s t) (changed : t.userMode ≠ s.userMode) :
    (∃ e, t = enterException e s) ∨ WritesCp0 i 12#5 := by
  rcases h.cp0_cases with entry | same | ⟨n, v, -, writes, regs⟩
  · exact .inl entry
  · exact absurd (congrArg srKUc (same 12#5)) changed
  · by_cases sr : 12#5 = n
    · exact .inr (sr ▸ writes)
    · exact absurd (congrArg srKUc ((regs 12#5).trans (if_neg sr))) changed

/-- Settles O57: each part of the step in turn. -/
theorem modeChangesOnlyByListedEvents : Obligations.ModeChangesOnlyByListedEvents := by
  unfold Obligations.ModeChangesOnlyByListedEvents
  refine ⟨fun i s t h changed => ?_, fun s t h => ?_, fun s => ⟨userMode_beginTick s, rfl⟩, userMode_enterException,
    fun s => userMode_envStep, fun a rest s => userMode_envStep_reset, userMode_resetEvent⟩
  · rcases (exec_change i s t h).userMode_cases changed with entry | ⟨rfe, -⟩ | others
    · exact .inl entry
    · exact .inr (.inl rfe)
    · exact .inr (.inr others)
  · rcases selectAndExecute_cases s with ⟨e, he⟩ | ⟨i, hi, he⟩
    · exact .inl ⟨e, by rw [he] at h; cases h; rfl⟩
    · exact .inr ⟨i, hi, he ▸ h⟩

/-! ### The invariant -/

/-- The storage is in canonical form and lists storage locations only. -/
def StorageWf (m : Memory) : Prop := m.wf ∧ ∀ c ∈ m, isStorage c.1 = true

/-- Slot 0 of each stage is 0 (10_state.md R54). -/
def ZeroSlots (s : State) : Prop := slot s.s1 0#5 = 0#32 ∧ slot s.s2 0#5 = 0#32 ∧ slot s.s3 0#5 = 0#32

/-- The latch and the next fetch agree (10_state.md R62, R63; 20_memory.md R167). -/
def LatchWf (s : State) : Prop :=
  (s.nextInstructionFault ≠ .none → s.nextInstruction = 0#32)
    ∧ (s.nextInstructionPc.toNat % 4 ≠ 0 → s.nextInstructionFault = .adEL)
    ∧ (s.branchTaken = false → s.nextPc = s.nextInstructionPc + 4#32)

/-- The invariant inside a tick: all of `State.Inv` but the mark of the delay slot, which the end of the tick clears. -/
structure TickInv (s : State) : Prop where
  storage : StorageWf s.mem
  zeros : ZeroSlots s
  latch : LatchWf s

theorem inv_iff (s : State) : s.Inv ↔ TickInv s ∧ s.inDelaySlot = false := by
  constructor
  · rintro ⟨wf, cells, z1, z2, z3, slot, latch⟩
    exact ⟨⟨⟨wf, cells⟩, ⟨z1, z2, z3⟩, latch⟩, slot⟩
  · rintro ⟨⟨⟨wf, cells⟩, ⟨z1, z2, z3⟩, latch⟩, slot⟩
    exact ⟨wf, cells, z1, z2, z3, slot, latch⟩

theorem storageWf_write {m : Memory} {loc : Nat} (h : StorageWf m) (hl : isStorage loc = true) (b : Byte) :
    StorageWf (m.write loc b) := by
  refine ⟨Memory.wf_write m loc b h.1, fun c hc => ?_⟩
  rcases Memory.mem_write m loc b c hc with old | ⟨rfl, -⟩
  · exact h.2 c old
  · exact hl

theorem storageWf_writeBytes {m : Memory} {n loc : Nat} {v : Word} (h : StorageWf m)
    (hl : ∀ a, loc ≤ a → a < loc + n → isStorage a = true) : StorageWf (m.writeBytes n loc v) := by
  refine ⟨Memory.wf_writeBytes m n loc v h.1, fun c hc => ?_⟩
  rcases Memory.mem_writeBytes m n loc v c hc with old | ⟨low, high⟩
  · exact h.2 c old
  · exact hl c.1 low high

/-- Bus masters write RAM (20_memory.md R181). -/
theorem storageWf_dmaWrites {m : Memory} (h : StorageWf m) (l : List (BitVec 21 × Byte)) :
    StorageWf (dmaWrites l m) := by
  induction l generalizing m with
  | nil => exact h
  | cons c rest ih =>
    have ram : isStorage c.1.toNat = true := by
      have := c.1.isLt
      simp only [isStorage, Bool.or_eq_true, decide_eq_true_eq]
      omega
    exact ih (storageWf_write h ram c.2)

theorem storageWf_filter {m : Memory} (h : StorageWf m) (keep : Host.Cell → Bool) : StorageWf (m.filter keep) :=
  ⟨Memory.wf_filter m keep h.1, fun c hc => h.2 c (List.mem_filter.1 hc).1⟩

theorem storageWf_envStep {s : State} (h : StorageWf s.mem) : StorageWf (envStep s).mem := by
  cases actions : s.env with
  | nil => rwa [envStep_nil actions]
  | cons a rest =>
    rw [mem_envStep_cons actions]
    split
    · exact storageWf_filter (storageWf_dmaWrites h a.dma) _
    · exact storageWf_dmaWrites h a.dma

theorem SameSlotZero.zeroSlots {s t : State} (same : SameSlotZero s t) (h : ZeroSlots s) : ZeroSlots t := by
  obtain ⟨h1, h2, h3⟩ := h
  obtain ⟨e1, e2, e3⟩ := same
  exact ⟨e1.trans h1, e2.trans h2, e3.trans h3⟩

/-- The bubble before an aligned address in the latch (60_exceptions.md R655). -/
theorem latchWf_redirect {v : Word} (aligned : (v - 4#32).toNat % 4 = 0) (s : State) : LatchWf (redirect v s) :=
  ⟨fun _ => rfl, fun mis => absurd aligned mis, fun _ => (BitVec.sub_add_cancel v 4#32).symm⟩

theorem latchWf_enterException (e : Exc) (s : State) : LatchWf (enterException e s) := by
  refine latchWf_redirect ?_ _
  unfold exceptionVector
  split <;> decide

/-- An instruction leaves the latch alone, but by an exception, and moves the next fetch only by a taken transfer. -/
theorem Change.latchWf {i : Instr} {s t : State} (h : Change i s t) (hs : LatchWf s) : LatchWf t := by
  have taken : ∀ u : State, u.nextInstruction = s.nextInstruction → u.nextInstructionFault = s.nextInstructionFault →
      u.nextInstructionPc = s.nextInstructionPc → u.branchTaken = true → LatchWf u := fun u hi hf hp hb =>
    ⟨by rw [hi, hf]; exact hs.1, by rw [hp, hf]; exact hs.2.1, fun e => by simp [hb] at e⟩
  cases h with
  | entered e => exact latchWf_enterException e s
  | transferred v => exact taken _ rfl rfl rfl rfl
  | linked r v => exact taken _ rfl rfl rfl rfl
  | stored e d addr w tgt v _ =>
    obtain ⟨m, a, b, e', h⟩ := busWrite_eq tgt w v { s with events := e, draws := d }
    rw [h]
    exact hs
  | storedBytes ea bytes _ hb =>
    obtain ⟨m, a, b, e', h⟩ := storeBytes_eq hb
    rw [h]
    exact hs
  | _ => exact hs

theorem Change.tickInv {i : Instr} {s t : State} (h : Change i s t) (hs : TickInv s) : TickInv t where
  storage := h.mem_induct hs.storage fun _ _ _ _ _ hm reaches =>
    storageWf_writeBytes hm fun _ => isStorage_of_reaches reaches
  zeros := h.sameSlotZero.zeroSlots hs.zeros
  latch := h.latchWf hs.latch

theorem tickInv_enterException {s : State} (h : TickInv s) (e : Exc) : TickInv (enterException e s) :=
  ⟨h.storage, h.zeros, latchWf_enterException e s⟩

theorem tickInv_beginTick {s : State} (h : TickInv s) : TickInv (beginTick s) where
  storage := by rw [beginTick_mem]; exact h.storage
  zeros := by rw [ZeroSlots, beginTick_s1, beginTick_s2, beginTick_s3]; exact h.zeros
  latch := by
    rw [LatchWf, beginTick_nextInstruction, beginTick_nextInstructionFault, beginTick_nextInstructionPc,
      beginTick_nextPc]
    exact ⟨(fetch_tags s.nextPc s).1, (fetch_tags s.nextPc s).2, fun _ => rfl⟩

theorem inv_endTick {s : State} (h : TickInv s) : (endTick s).Inv := by
  obtain ⟨h1, h2, -⟩ := h.zeros
  exact (inv_iff _).2 ⟨⟨h.storage, ⟨h1, h1, h2⟩, h.latch⟩, rfl⟩

/-- Settles O54: at reset no byte is listed, the stages are filled with zeros and the latch is a redirect. -/
theorem resetMeetsInvariant : Obligations.ResetMeetsInvariant := by
  unfold Obligations.ResetMeetsInvariant
  have zero := slot_replicate 0#32 0#5
  exact ⟨⟨.nil, nofun⟩, nofun, zero, zero, zero, rfl, fun _ => rfl, by decide, fun _ => by decide⟩

theorem inv_envStep {s : State} (h : s.Inv) : (envStep s).Inv := by
  obtain ⟨⟨storage, zeros, latch⟩, slot⟩ := (inv_iff s).1 h
  cases actions : s.env with
  | nil => rwa [envStep_nil actions]
  | cons a rest =>
    have kept := storageWf_envStep storage
    rw [envStep_cons actions] at kept ⊢
    split_ifs at kept ⊢
    · obtain ⟨⟨-, zeros, latch⟩, slot⟩ := (inv_iff _).1 resetMeetsInvariant
      exact (inv_iff _).2 ⟨⟨kept, zeros, latch⟩, slot⟩
    · exact (inv_iff _).2 ⟨⟨kept, zeros, latch⟩, slot⟩

/-- Settles O55: the invariant is carried through the beginning of the tick, the exception entry or the instruction,
the end of the tick and the environment step. -/
theorem stepKeepsInvariant : Obligations.StepKeepsInvariant := by
  unfold Obligations.StepKeepsInvariant
  intro s t hs h
  have start := tickInv_beginTick ((inv_iff s).1 hs).1
  rcases step_cases s t h with ⟨e, rfl⟩ | ⟨i, r, -, hr, rfl⟩
  · exact inv_envStep (inv_endTick (tickInv_enterException start e))
  · exact inv_envStep (inv_endTick ((exec_change i _ r hr).tickInv start))

/-! ### The first tick after reset (70_reset_and_hazards.md R733) -/

theorem eq_of_slot {v u : Vector Word 32} (h : ∀ r, slot v r = slot u r) : v = u :=
  Vector.ext fun i hi => by
    have := h (BitVec.ofNat 5 i)
    simpa only [slot, BitVec.toNat_ofNat, Nat.mod_eq_of_lt (show i < 2 ^ 5 from hi)] using this

/-- The bubble is the word 0, a shift into register 0, which discards it (30_encoding.md R257, 10_state.md R54). -/
theorem execute_bubble {s : State} (h : s.currentInstruction = 0#32) : execute s = .next s := by
  have decoded : decode 0#32 = .instr (.sll 0#5 0#5 0#5) := by decide
  rw [execute, h, decoded]
  rfl

/-- The reset vector is the first byte of BIOS in KSEG1, which kernel mode may fetch (R732, 20_memory.md R156). -/
theorem fetch_resetVector {s : State} (kernel : srKUc s.sr = false) :
    fetch 0xBFC00000#32 s = (composeBytes s.mem.read 4 0x1FC00000, .none, s) := by
  have permitted : Permitted s 0xBFC00000#32 .word := ⟨by decide, by simp [kernel]⟩
  have routed : route s.ioClaims 0xBFC00000#32 = some (.rom 0x1FC00000) := by
    rw [route_of_isPhysical (p := 0x1FC00000) (.inr (.inr (by decide))), routePhysical_bios (by decide)]
  rw [fetch_of_permitted permitted, routed]
  rfl

/-- The environment step without a reset event, as one update. -/
theorem envStep_noReset {s : State} (noReset : ∀ a rest, s.env = a :: rest → a.reset = false) :
    ∃ m, envStep s = { s with
        env := s.env.tail, iStat := (s.env.head?.map (s.iStat ||| ·.irqs)).getD s.iStat, mem := m }
      ∧ ∀ loc, (∀ a rest, s.env = a :: rest → ∀ c ∈ a.dma, c.1.toNat ≠ loc) → m.read loc = s.mem.read loc := by
  cases actions : s.env with
  | nil =>
    exact ⟨s.mem, (envStep_nil actions).trans (congrArg (fun e => { s with env := e }) actions), fun _ _ => rfl⟩
  | cons a rest =>
    refine ⟨dmaWrites a.dma s.mem, ?_, fun loc free => read_dmaWrites_outside _ _ _ (free a rest rfl)⟩
    rw [envStep_cons actions, noReset a rest actions]
    rfl

/-- A tick with the bubble in the latch and interrupts disabled is its own beginning and end. -/
theorem step_of_bubble {s : State} (word : s.nextInstruction = 0#32) (tag : s.nextInstructionFault = .none)
    (disabled : s.sr.getLsbD 0 = false) : step s = .next (envStep (endTick (beginTick s))) := by
  have noInterrupt : interruptEnabled (beginTick s).sr (beginTick s).cause = false :=
    interruptEnabled_eq_false (.inl (by rw [sr_beginTick, disabled]))
  have pending := pendingException_of_disabled noInterrupt
  rw [beginTick_currentFault, tag] at pending
  rw [step_of_no_exception pending, execute_bubble ((beginTick_currentInstruction s).trans word), finishStep_next]

/-- Settles O53: the tick is that of a bubble, its fetch is the first word of BIOS, and R731 fills all three stages with
zeros, so that their advance changes nothing. -/
theorem firstTickAfterReset : Obligations.FirstTickAfterReset := by
  unfold Obligations.FirstTickAfterReset
  rintro s ⟨gprs, -, -, -, next, nextPcOf, nextFault, fetchPc, -, notTaken, sr, -, iStat, iMask⟩ noReset
  have tick := step_of_bubble next nextFault (by rw [sr]; decide)
  have bios := fetch_resetVector (s := s) (by rw [sr]; decide)
  rw [← fetchPc] at bios
  have stages : s.s2 = s.s1 ∧ s.s3 = s.s1 :=
    ⟨eq_of_slot fun r => (gprs r).2.1.trans (gprs r).1.symm, eq_of_slot fun r => (gprs r).2.2.trans (gprs r).1.symm⟩
  have word : ∀ j, j < 4 → byteOf (composeBytes s.mem.read 4 0x1FC00000) j = s.mem.read (0x1FC00000 + j) :=
    fun j hj => by rw [byteOf_composeBytes, if_pos ⟨hj, hj⟩]
  have cp0 := cp0Reg_beginTick s
  rw [beginTick_eq, bios] at tick cp0
  obtain ⟨m, acts, unwritten⟩ := envStep_noReset (s := endTick (sampleInterrupt (fetched
    (composeBytes s.mem.read 4 0x1FC00000, .none, s) s))) noReset
  rw [acts] at tick
  refine ⟨_, tick, nextPcOf, next, nextFault, fetchPc, rfl, ?nextPc, rfl, rfl, word,
    ⟨rfl, stages.1.symm, stages.1.trans stages.2.symm⟩, ⟨rfl, rfl⟩, fun n other => (cp0 n).trans (if_neg other), ?cause,
    iMask, ?iStat, unwritten, rfl, rfl, rfl, rfl⟩
  case nextPc => exact congrArg (· + 4#32) fetchPc
  case cause =>
    have request : interruptRequest s.iStat s.iMask = false := by rw [iStat, iMask]; decide
    have cause := (cp0 13#5).trans (if_pos rfl)
    rw [request] at cause
    exact fun i => (congrArg (·.getLsbD i) cause).trans (getLsbD_sampleCause s.cause false i)
  case iStat =>
    show (s.env.head?.map (s.iStat ||| ·.irqs)).getD s.iStat = _
    rw [iStat]
    cases s.env with
    | nil => rfl
    | cons a rest => exact BitVec.zero_or

end Sys2Proof.Machine

/-! Overflow as numbers (40_alu.md R301), and the load delay (10_state.md R53 to R58). -/

namespace Sys2Proof.Machine

theorem overflowAdd_eq_saddOverflow (a b : Word) : overflowAdd a b = a.saddOverflow b := by
  rw [BitVec.saddOverflow_eq, overflowAdd, bne]

theorem overflowSub_eq_ssubOverflow (a b : Word) : overflowSub a b = a.ssubOverflow b := by
  rw [BitVec.ssubOverflow_eq, overflowSub]
  cases a.msb <;> cases b.msb <;> cases (a - b).msb <;> rfl

/-- Settles O8: the sign rules are the library's overflow predicates of the exact sum and difference. -/
theorem overflowIsSignedResultOutOfRange : Obligations.OverflowIsSignedResultOutOfRange := by
  unfold Obligations.OverflowIsSignedResultOutOfRange
  intro a b
  rw [overflowAdd_eq_saddOverflow, overflowSub_eq_ssubOverflow]
  refine ⟨?_, ?_, fun fits => BitVec.toInt_add_of_not_saddOverflow (Bool.eq_false_iff.1 fits),
    fun fits => BitVec.toInt_sub_of_not_ssubOverflow (Bool.eq_false_iff.1 fits)⟩
  · simp only [BitVec.saddOverflow, Bool.or_eq_true, decide_eq_true_eq]
    omega
  · simp only [BitVec.ssubOverflow, Bool.or_eq_true, decide_eq_true_eq]
    omega

section
variable {r : RegIdx} {v : Word} {s t u : State}

theorem x_endTick (hr : r ≠ 0#5) : (endTick t).x r = slot t.s2 r := if_neg hr

/-- The end of the load's own tick takes the value from stage S1 to S2 (R55). -/
theorem slot_s2_after_load (loaded : GprLoaded r v s t) (hr : r ≠ 0#5) : slot (endTick t).s2 r = v := loaded.1 hr

theorem x_after_load_and_slot (loaded : GprLoaded r v s t) (hr : r ≠ 0#5)
    (untouched : GprsSameBut (fun q => q ≠ r) (endTick t) u) : (endTick u).x r = v := by
  obtain ⟨-, kept, -⟩ := untouched r (not_not_intro rfl)
  rw [x_endTick hr, kept, slot_s2_after_load loaded hr]

end

/-- Settles O29: the value goes from S1 to S2 in the first advance and from S2 to S3 in the second. -/
theorem loadDelayVisibility : Obligations.LoadDelayVisibility := by
  unfold Obligations.LoadDelayVisibility
  intro r v s t hr loaded
  refine ⟨?_, ?_, fun u => x_after_load_and_slot loaded hr, fun u v' written => ?_,
    fun u v' second => ⟨?_, fun w => ?_⟩⟩
  · obtain ⟨-, -, s2, -⟩ := loaded
    rw [x_endTick hr, s2]
  · exact (if_neg hr).trans (loaded.1 hr)
  · obtain ⟨h1, h2, -⟩ := written.1 hr
    exact ⟨h1, h1, h2⟩
  · obtain ⟨-, -, s2, -⟩ := second
    rw [x_endTick hr, s2, slot_s2_after_load loaded hr]
  · exact x_after_load_and_slot second hr

end Sys2Proof.Machine

/-! Loads (43_loadstore.md). A load that reaches the bus is one bus read and one delayed write (`runs_loadInto`,
`runs_loadMerge`); one
that does not stops as its checks say (`stopsAs_withLoad`). -/

namespace Sys2Proof.Machine

section
variable {w : Word} {i : Instr} {s : State} {report addr : Word} {wd : Width} {tgt : Target}
  {use : Word → State → State}

theorem stopsAs_withLoad (hd : decode w = .instr i) (he : exec i s = withLoad report addr wd s use) :
    StopsAs (.adEL report) addr wd w i s := by
  unfold withLoad at he
  refine ⟨fun forbidden => ⟨hd, ?_⟩, fun ⟨permitted, isolated⟩ => ⟨hd, ?_⟩,
    fun ⟨permitted, shared, unmapped⟩ => ⟨hd, ?_⟩⟩
  · rw [he, checkAccess_of_forbidden forbidden]
    rfl
  · rw [he, checkAccess_of_isolated permitted isolated]
  · rw [he, checkAccess_of_unmapped permitted shared unmapped]
    rfl

end

section
variable {w : Word} {i : Instr} {s : State} {rt : RegIdx} {addr : Word} {wd : Width} {tgt : Target}
  {extend : Word → Word} {merge : Nat → Word → Word → Word}

theorem runs_loadInto {v : Word} (hd : decode w = .instr i) (he : exec i s = loadInto rt addr wd extend s)
    (reaches : Reaches s addr wd tgt) (hv : extend (busRead tgt wd s).1 = v) :
    Runs w i s (OnlyGprs (GprLoaded rt v) (busRead tgt wd s).2) :=
  ⟨hd, _, he.trans (withLoad_of_reaches reaches ..), hv ▸ onlyGprs_writeDelayed ..⟩

theorem runs_loadMerge {bytes : Nat → Byte} (hd : decode w = .instr i) (he : exec i s = loadMerge rt addr merge s)
    (reaches : Reaches s (alignedWord addr) .word tgt)
    (hv : ∀ j, j < 4 → byteOf (merge (byteOffset addr) (s.xf rt) (busRead tgt .word s).1) j = bytes j) :
    Runs w i s (fun t => ∃ v, OnlyGprs (GprLoaded rt v) (busRead tgt .word s).2 t
      ∧ ∀ j, j < 4 → byteOf v j = bytes j) :=
  ⟨hd, _, he.trans (withLoad_of_reaches reaches ..), _, onlyGprs_writeDelayed .., hv⟩

theorem stopsAs_loadInto (hd : decode w = .instr i) (he : exec i s = loadInto rt addr wd extend s) :
    StopsAs (.adEL addr) addr wd w i s := stopsAs_withLoad hd he

/-- A partial-word load reports the aligned address of its access (log 8). -/
theorem stopsAs_loadMerge (hd : decode w = .instr i) (he : exec i s = loadMerge rt addr merge s) :
    StopsAs (.adEL (alignedWord addr)) (alignedWord addr) .word w i s := stopsAs_withLoad hd he

end

/-! ### The loaded values (R503 to R507) -/

theorem zextLow8_eq_append (v : Word) : zextLow8 v = 0#24 ++ byteOf v 0 := BitVec.setWidth_eq_append (by decide)

theorem lowHalf_eq_append (v : Word) : v.extractLsb' 0 16 = byteOf v 1 ++ byteOf v 0 := by
  have adjacent : v.extractLsb' 8 8 ++ v.extractLsb' 0 8 = v.extractLsb' 0 16 :=
    BitVec.extractLsb'_append_extractLsb'_eq_extractLsb' rfl
  exact adjacent.symm

theorem sextLow16_eq_append (v : Word) : sextLow16 v = (byteOf v 1 ++ byteOf v 0).signExtend 32 := by
  rw [sextLow16, lowHalf_eq_append]

theorem zextLow16_eq_append (v : Word) : zextLow16 v = 0#16 ++ byteOf v 1 ++ byteOf v 0 := by
  rw [zextLow16, lowHalf_eq_append, BitVec.setWidth_eq_append (by decide : 16 ≤ 32)]
  exact BitVec.append_assoc.symm

/-- Settles O23: one bus read, and the value of each width and extension by its bytes. -/
theorem loadResults : Obligations.LoadResults := by
  unfold Obligations.LoadResults
  intro rt rs imm16 s tgt
  refine ⟨fun reaches => ⟨runs_loadInto ?_ rfl reaches rfl, runs_loadInto ?_ rfl reaches (zextLow8_eq_append _)⟩,
    fun reaches => ⟨runs_loadInto ?_ rfl reaches (sextLow16_eq_append _),
      runs_loadInto ?_ rfl reaches (zextLow16_eq_append _)⟩,
    fun reaches => runs_loadInto ?_ rfl reaches rfl⟩
  all_goals simp only [decode, fields_iWord]

/-- Settles O25: each load stops as its access does; the two partial ones report the aligned address. -/
theorem loadFaultsAndIsolation : Obligations.LoadFaultsAndIsolation := by
  unfold Obligations.LoadFaultsAndIsolation
  intro rt rs imm16 s
  simp only [List.forall_mem_cons, List.not_mem_nil, false_implies, implies_true, and_true]
  refine ⟨⟨stopsAs_loadInto ?_ rfl, stopsAs_loadInto ?_ rfl, stopsAs_loadInto ?_ rfl, stopsAs_loadInto ?_ rfl,
    stopsAs_loadInto ?_ rfl⟩, ⟨_, .inr rfl, stopsAs_loadMerge ?_ rfl⟩, ⟨_, .inr rfl, stopsAs_loadMerge ?_ rfl⟩⟩
  all_goals simp only [decode, fields_iWord]

/-! ### The merges of LWL and LWR (R508, R509) -/

theorem byteOf_mergeLow (cur w : Word) {m : Nat} (hm : m ≤ 4) {j : Nat} (hj : j < 4) :
    byteOf ((cur &&& fieldMask 0 (8 * m)) ||| (w <<< (8 * m))) j =
      if m ≤ j then byteOf w (j - m) else byteOf cur j := by
  refine BitVec.eq_of_getLsbD_eq fun i hi => ?_
  rw [getLsbD_byteOf, BitVec.getLsbD_or, BitVec.getLsbD_and, getLsbD_fieldMask _ _ _ (by omega),
    BitVec.getLsbD_shiftLeft]
  by_cases high : m ≤ j
  · rw [if_pos high, getLsbD_byteOf, show 8 * j + i - 8 * m = 8 * (j - m) + i by omega]
    simp [hi, show ¬ 8 * j + i < 8 * m by omega, show 8 * j + i < 32 by omega]
  · rw [if_neg high, getLsbD_byteOf]
    simp [hi, show 8 * j + i < 8 * m by omega]

theorem byteOf_mergeHigh (cur w : Word) {k : Nat} (hk : k ≤ 4) {j : Nat} (hj : j < 4) :
    byteOf ((cur &&& fieldMask (8 * (4 - k)) (8 * k)) ||| (w >>> (8 * k))) j =
      if j < 4 - k then byteOf w (j + k) else byteOf cur j := by
  refine BitVec.eq_of_getLsbD_eq fun i hi => ?_
  rw [getLsbD_byteOf, BitVec.getLsbD_or, BitVec.getLsbD_and, getLsbD_fieldMask _ _ _ (by omega),
    BitVec.getLsbD_ushiftRight]
  by_cases low : j < 4 - k
  · rw [if_pos low, getLsbD_byteOf, show 8 * k + (8 * j + i) = 8 * (j + k) + i by omega]
    simp [hi, show ¬ 8 * (4 - k) ≤ 8 * j + i by omega]
  · rw [if_neg low, getLsbD_byteOf, BitVec.getLsbD_of_ge w _ (by omega)]
    simp [hi, show 8 * (4 - k) ≤ 8 * j + i by omega, show 8 * j + i < 8 * (4 - k) + 8 * k by omega]

theorem lwlMerge_eq {k : Nat} (hk : k < 4) (cur w : Word) :
    lwlMerge k cur w = (cur &&& fieldMask 0 (8 * (3 - k))) ||| (w <<< (8 * (3 - k))) := by
  match k, hk with
  | 0, _ => rfl
  | 1, _ => rfl
  | 2, _ => rfl
  | 3, _ => simp [lwlMerge, fieldMask]

theorem lwrMerge_eq {k : Nat} (hk : k < 4) (cur w : Word) :
    lwrMerge k cur w = (cur &&& fieldMask (8 * (4 - k)) (8 * k)) ||| (w >>> (8 * k)) := by
  match k, hk with
  | 0, _ => simp [lwrMerge, fieldMask]
  | 1, _ => rfl
  | 2, _ => rfl
  | 3, _ => rfl

/-- LWL by bytes: the low `k + 1` bytes of the word at the top of the register. -/
theorem byteOf_lwlMerge {k : Nat} (hk : k < 4) (cur w : Word) {j : Nat} (hj : j < 4) :
    byteOf (lwlMerge k cur w) j = if 3 - k ≤ j then byteOf w (j - (3 - k)) else byteOf cur j := by
  rw [lwlMerge_eq hk, byteOf_mergeLow cur w (by omega) hj]

/-- LWR by bytes: the high `4 - k` bytes of the word at the bottom of the register. -/
theorem byteOf_lwrMerge {k : Nat} (hk : k < 4) (cur w : Word) {j : Nat} (hj : j < 4) :
    byteOf (lwrMerge k cur w) j = if j ≤ 3 - k then byteOf w (j + k) else byteOf cur j := by
  rw [lwrMerge_eq hk, byteOf_mergeHigh cur w (by omega) hj]
  exact if_congr (by omega) rfl rfl

theorem byteOffset_lt (ea : Word) : byteOffset ea < 4 := Nat.mod_lt _ (by decide)

/-- Settles O24: the merged word is written with a delay, and its bytes are those of the merge. -/
theorem unalignedLoadResults : Obligations.UnalignedLoadResults := by
  unfold Obligations.UnalignedLoadResults
  intro rt rs imm16 s tgt reaches
  refine ⟨runs_loadMerge ?_ rfl reaches fun j => byteOf_lwlMerge (byteOffset_lt _) _ _,
    runs_loadMerge ?_ rfl reaches fun j => byteOf_lwrMerge (byteOffset_lt _) _ _⟩
  all_goals simp only [decode, fields_iWord]

/-! ### The unaligned word (R516) -/

/-- A partial-word load from storage. -/
theorem loadMerge_storage {s : State} {addr : Word} {loc : Nat}
    (reaches : Reaches s (alignedWord addr) .word (.storage loc)) (rt : RegIdx) (merge : Nat → Word → Word → Word) : loadMerge rt addr merge s =
      .next (s.writeDelayed rt (merge (byteOffset addr) (s.xf rt) (composeBytes s.mem.read 4 loc))) :=
  withLoad_of_reaches reaches ..

theorem xf_writeDelayed {r : RegIdx} (hr : r ≠ 0#5) (s : State) (v : Word) : (s.writeDelayed r v).xf r = v := by
  rw [State.xf, if_neg hr, writeDelayed_s1, slot_setStage, if_pos ⟨rfl, hr⟩]

theorem byteOf_composeWord (m : Memory) (loc : Nat) {j : Nat} (hj : j < 4) :
    byteOf (composeBytes m.read 4 loc) j = m.read (loc + j) := by
  rw [byteOf_composeBytes, if_pos ⟨hj, hj⟩]

/-- Two partial-word loads of one register from storage in consecutive ticks, with the same base: the second merges into
what the first left in stage S1. -/
theorem exec_loadMerge_twice {s : State} {rt rs : RegIdx} {imm imm' : BitVec 16} {loc loc' : Nat}
    {merge merge' : Nat → Word → Word → Word} {i i' : Instr} (hr : rt ≠ 0#5)
    (hi : ∀ u, exec i u = loadMerge rt (u.ea rs imm) merge u)
    (hi' : ∀ u, exec i' u = loadMerge rt (u.ea rs imm') merge' u) (base : (endTick s).x rs = s.x rs)
    (first : Reaches s (alignedWord (s.ea rs imm)) .word (.storage loc))
    (second : Reaches s (alignedWord (s.ea rs imm')) .word (.storage loc')) :
    ∃ t u, exec i s = .next t ∧ exec i' (endTick t) = .next u
      ∧ u.xf rt = merge' (byteOffset (s.ea rs imm'))
          (merge (byteOffset (s.ea rs imm)) (s.xf rt) (composeBytes s.mem.read 4 loc))
          (composeBytes s.mem.read 4 loc') := by
  have end1 := (hi s).trans (loadMerge_storage first rt merge)
  generalize hv : merge (byteOffset (s.ea rs imm)) (s.xf rt) (composeBytes s.mem.read 4 loc) = v at end1 ⊢
  have base' : (endTick (s.writeDelayed rt v)).ea rs imm' = s.ea rs imm' := congrArg (effectiveAddress · imm') base
  have end2 := hi' (endTick (s.writeDelayed rt v))
  have second' : Reaches (endTick (s.writeDelayed rt v)) (alignedWord (s.ea rs imm')) .word (.storage loc') :=
    (reaches_congr (s := s) rfl rfl ..).2 second
  rw [base', loadMerge_storage second'] at end2
  refine ⟨_, _, end1, end2, (xf_writeDelayed hr ..).trans ?_⟩
  exact congrArg (merge' _ · _) (xf_writeDelayed hr s v)

/-- The word that LWR and LWL compose, in either order (R516): the bytes from `ea` up, of the aligned word `lo` that
holds `ea` and of the aligned word `hi` that holds `ea + 3`. -/
theorem byteOf_unalignedWord {ea : Word} {lo hi : Word} (aligned : ea.toNat % 4 = 0 → hi = lo) (cur : Word) {j : Nat}
    (hj : j < 4) :
    byteOf (lwlMerge (byteOffset (ea + 3#32)) (lwrMerge (byteOffset ea) cur lo) hi) j
        = (if ea.toNat % 4 + j < 4 then byteOf lo (ea.toNat % 4 + j) else byteOf hi (ea.toNat % 4 + j - 4))
      ∧ byteOf (lwrMerge (byteOffset ea) (lwlMerge (byteOffset (ea + 3#32)) cur hi) lo) j
        = (if ea.toNat % 4 + j < 4 then byteOf lo (ea.toNat % 4 + j) else byteOf hi (ea.toNat % 4 + j - 4)) := by
  have offset : byteOffset (ea + 3#32) = (ea.toNat + 3) % 4 := by
    rw [byteOffset, BitVec.toNat_add]
    show (ea.toNat + 3) % 2 ^ 32 % 4 = _
    omega
  rw [byteOf_lwlMerge (byteOffset_lt _) _ _ hj, byteOf_lwrMerge (byteOffset_lt _) _ _ hj,
    byteOf_lwrMerge (byteOffset_lt _) _ _ hj, byteOf_lwlMerge (byteOffset_lt _) _ _ hj, offset, byteOffset]
  by_cases zero : ea.toNat % 4 = 0
  · rw [aligned zero, zero, show 3 - (ea.toNat + 3) % 4 = 0 by omega, if_pos (Nat.zero_le j), if_pos (by omega),
      if_pos (by omega), Nat.zero_add]
    exact ⟨rfl, rfl⟩
  · rw [show 3 - (ea.toNat + 3) % 4 = 4 - ea.toNat % 4 by omega]
    by_cases low : ea.toNat % 4 + j < 4
    · simp only [low, show ¬ 4 - ea.toNat % 4 ≤ j by omega, show j ≤ 3 - ea.toNat % 4 by omega, if_true, if_false,
        Nat.add_comm j, and_self]
    · simp only [low, show 4 - ea.toNat % 4 ≤ j by omega, show ¬ j ≤ 3 - ea.toNat % 4 by omega, if_true, if_false,
        show j - (4 - ea.toNat % 4) = ea.toNat % 4 + j - 4 by omega, and_self]

/-- The aligned word as a number. -/
theorem toNat_alignedWord (ea : Word) : (alignedWord ea).toNat = ea.toNat - ea.toNat % 4 := by
  have cleared : alignedWord ea = (ea >>> 2) <<< 2 := by
    have mask : 0xFFFFFFFC#32 = fieldMask 2 30 := rfl
    refine BitVec.eq_of_getLsbD_eq fun i hi => ?_
    rw [alignedWord, mask, BitVec.getLsbD_and, getLsbD_fieldMask _ _ _ (by omega), BitVec.getLsbD_shiftLeft,
      BitVec.getLsbD_ushiftRight]
    grind
  have := ea.isLt
  rw [cleared, BitVec.toNat_shiftLeft, BitVec.toNat_ushiftRight, Nat.shiftLeft_eq, Nat.shiftRight_eq_div_pow]
  omega

theorem alignedWord_add_three {ea : Word} (h : ea.toNat % 4 = 0) : alignedWord (ea + 3#32) = alignedWord ea := by
  have := ea.isLt
  have three : (ea + 3#32).toNat = ea.toNat + 3 := toNat_add_within (j := 3) (by omega)
  refine BitVec.eq_of_toNat_eq ?_
  rw [toNat_alignedWord, toNat_alignedWord, three]
  omega

/-- Where `ea` is aligned, `ea + 3` is of the same word, and so is its location. -/
theorem location_add_three {s : State} {ea : Word} {loc loc' : Nat} (h : ea.toNat % 4 = 0)
    (lo : Reaches s (alignedWord ea) .word (.storage loc))
    (hi : Reaches s (alignedWord (ea + 3#32)) .word (.storage loc')) : loc' = loc := by
  obtain ⟨-, -, routed⟩ := lo
  obtain ⟨-, -, routed'⟩ := hi
  rw [alignedWord_add_three h, routed] at routed'
  injection routed' with target
  injection target with e
  exact e.symm

/-- The bytes of an unaligned word that is composed of two stored ones. -/
theorem byteOf_composeWords (m : Memory) (loc loc' k : Nat) {j : Nat} (hk : k < 4) (hj : j < 4) :
    (if k + j < 4 then byteOf (composeBytes m.read 4 loc) (k + j) else byteOf (composeBytes m.read 4 loc') (k + j - 4))
      = if k + j < 4 then m.read (loc + (k + j)) else m.read (loc' + (k + j - 4)) := by
  split_ifs with low
  · exact byteOf_composeWord m loc low
  · exact byteOf_composeWord m loc' (by omega)

/-- Settles O30: in either order the two merges give each byte of the word from the aligned word that holds it. -/
theorem unalignedWordIdiom : Obligations.UnalignedWordIdiom := by
  unfold Obligations.UnalignedWordIdiom
  intro rt rs immR immL s ea loc loc' hr right left base reaches reaches'
  have atR : s.ea rs immR = ea := right
  have atL : s.ea rs immL = ea + 3#32 := left
  have sameWord : ea.toNat % 4 = 0 → composeBytes s.mem.read 4 loc' = composeBytes s.mem.read 4 loc := fun h => by
    rw [location_add_three h reaches reaches']
  have bytes := fun j => byteOf_composeWords s.mem loc loc' (ea.toNat % 4) (j := j) (byteOffset_lt ea)
  simp only [List.forall_mem_cons, List.not_mem_nil, false_implies, implies_true, and_true]
  constructor
  · obtain ⟨t, u, ht, hu, value⟩ := exec_loadMerge_twice (i := .lwr rt rs immR) (i' := .lwl rt rs immL) hr
      (fun _ => rfl) (fun _ => rfl) base (atR ▸ reaches) (atL ▸ reaches')
    rw [atR, atL] at value
    exact ⟨t, u, ht, hu, fun j hj => by rw [value, (byteOf_unalignedWord sameWord _ hj).1, bytes j hj]⟩
  · obtain ⟨t, u, ht, hu, value⟩ := exec_loadMerge_twice (i := .lwl rt rs immL) (i' := .lwr rt rs immR) hr
      (fun _ => rfl) (fun _ => rfl) base (atL ▸ reaches') (atR ▸ reaches)
    rw [atR, atL] at value
    exact ⟨t, u, ht, hu, fun j hj => by rw [value, (byteOf_unalignedWord sameWord _ hj).2, bytes j hj]⟩

end Sys2Proof.Machine

/-! Stores (43_loadstore.md). SB, SH and SW are one bus write. SWL and SWR store bytes of one aligned word one after
another: all of them are routed to the word's target, and the outcome is told target by target. -/

namespace Sys2Proof.Machine

section
variable {w : Word} {i : Instr} {s : State} {addr v : Word} {wd : Width} {tgt : Target}

/-- One bus write; where it lands in storage, the stored bytes change and nothing else. -/
theorem runs_storeWord (hd : decode w = .instr i) (he : exec i s = storeWord addr wd v s)
    (reaches : Reaches s addr wd tgt) :
    Runs w i s (fun t => t = busWrite tgt wd v s
      ∧ ∀ loc, tgt = .storage loc → s.mem.wf → OnlyMemory (BytesStored loc wd.bytes v) s t) :=
  ⟨hd, _, he.trans (storeWord_of_reaches reaches v), rfl, fun loc ht wf => ht ▸ onlyMemory_busWrite_storage wf loc wd v⟩

theorem stopsAs_storeWord (hd : decode w = .instr i) (he : exec i s = storeWord addr wd v s) :
    StopsAs (.adES addr) addr wd w i s := by
  unfold storeWord at he
  refine ⟨fun forbidden => ⟨hd, ?_⟩, fun ⟨permitted, isolated⟩ => ⟨hd, ?_⟩,
    fun ⟨permitted, shared, unmapped⟩ => ⟨hd, ?_⟩⟩
  · rw [he, checkAccess_of_forbidden forbidden]
    rfl
  · rw [he, checkAccess_of_isolated permitted isolated]
  · rw [he, checkAccess_of_unmapped permitted shared unmapped]
    rfl

end

/-- Settles O26: each of the three is a `storeWord` of `x[rt]`. -/
theorem storeResults : Obligations.StoreResults := by
  unfold Obligations.StoreResults
  intro rt rs imm16 s tgt
  simp only [List.forall_mem_cons, List.not_mem_nil, false_implies, implies_true, and_true]
  refine ⟨runs_storeWord ?_ rfl, runs_storeWord ?_ rfl, runs_storeWord ?_ rfl⟩
  all_goals simp only [decode, fields_iWord]

/-! ### The byte stores of one aligned word (R513, R514) -/

/-- The byte writes `byteAt j` to `a + first + j`, `j < count`. -/
def byteWrites (a : Word) (first count : Nat) (byteAt : Nat → Byte) : List (Word × Byte) :=
  (List.range count).map fun j => (a + BitVec.ofNat 32 (first + j), byteAt j)

theorem byteWrites_succ (a : Word) (first n : Nat) (byteAt : Nat → Byte) :
    ∃ rest, byteWrites a first (n + 1) byteAt = (a + BitVec.ofNat 32 first, byteAt 0) :: rest :=
  ⟨_, by rw [byteWrites, List.range_succ_eq_map]; rfl⟩

theorem swlBytes_eq (ea v : Word) : swlBytes ea v =
    byteWrites (alignedWord ea) 0 (byteOffset ea + 1) fun j => byteOf v (3 - byteOffset ea + j) := by
  simp only [swlBytes, byteWrites, byteOf_eq_shift, Nat.zero_add]

theorem swrBytes_eq (ea v : Word) : swrBytes ea v =
    byteWrites (alignedWord ea) (byteOffset ea) (4 - byteOffset ea) fun j => byteOf v j := by
  simp only [swrBytes, byteWrites, byteOf_eq_shift]

/-- The state after those writes at the target of the word. -/
def bytesWritten (tgt : Target) (first count : Nat) (byteAt : Nat → Byte) (s : State) : State :=
  (List.range count).foldl (fun u j => busWrite (tgt.plus (first + j)) .byte ((byteAt j).setWidth 32) u) s

theorem bytesWritten_succ (tgt : Target) (first count : Nat) (byteAt : Nat → Byte) (s : State) :
    bytesWritten tgt first (count + 1) byteAt s =
      busWrite (tgt.plus (first + count)) .byte ((byteAt count).setWidth 32)
        (bytesWritten tgt first count byteAt s) := by
  rw [bytesWritten, List.range_succ, List.foldl_append]
  rfl

section
variable {s : State} {a : Word} {j : Nat}

theorem msb_add_within (aligned : a.toNat % 4 = 0) (hj : j < 4) : (a + BitVec.ofNat 32 j).msb = a.msb := by
  rw [BitVec.msb_eq_decide, BitVec.msb_eq_decide, toNat_add_within (by omega)]
  simp only [decide_eq_decide]
  omega

/-- A byte of an aligned word may be accessed where the word may. -/
theorem permitted_byte_iff (aligned : a.toNat % 4 = 0) (hj : j < 4) :
    Permitted s (a + BitVec.ofNat 32 j) .byte ↔ Permitted s a .word := by
  have byteAligned : (a + BitVec.ofNat 32 j).toNat % Width.byte.bytes = 0 := Nat.mod_one _
  rw [Permitted, msb_add_within aligned hj]
  exact and_congr (iff_of_true byteAligned aligned) Iff.rfl

theorem reaches_byte {tgt : Target} (wf : ∀ c ∈ s.ioClaims, c.wf = true) (reaches : Reaches s a .word tgt)
    (hj : j < 4) :
    Reaches s (a + BitVec.ofNat 32 j) .byte (tgt.plus j) := by
  obtain ⟨permitted, shared, routed⟩ := reaches
  have aligned : a.toNat % 4 = 0 := permitted.1
  refine ⟨(permitted_byte_iff aligned hj).2 permitted, shared, ?_⟩
  rw [route_add wf (by omega), routed]
  rfl

end

/-- A byte write that reaches the bus, then the rest. -/
theorem storeBytes_cons {ea addr : Word} {b : Byte} {s : State} {tgt : Target} (reaches : Reaches s addr .byte tgt)
    (rest : List (Word × Byte)) :
    storeBytes ea ((addr, b) :: rest) s = storeBytes ea rest (busWrite tgt .byte (b.setWidth 32) s) := by
  rw [storeBytes, checkAccess_of_reaches reaches]

/-- Under isolation every permitted byte write is dropped (20_memory.md R174). -/
theorem storeBytes_isolated {ea : Word} {s : State} (isolated : srIsC s.sr = true) {l : List (Word × Byte)}
    (permitted : ∀ c ∈ l, Permitted s c.1 .byte) : storeBytes ea l s = .ok s := by
  induction l with
  | nil => rfl
  | cons c rest ih =>
    rw [storeBytes, checkAccess_of_isolated (permitted c (.head _)) isolated]
    exact ih fun d hd => permitted d (.tail _ hd)

theorem storeBytes_map {s : State} {a ea : Word} {tgt : Target} (wf : ∀ c ∈ s.ioClaims, c.wf = true)
    (reaches : Reaches s a .word tgt) (first : Nat) (byteAt : Nat → Byte) (l : List Nat)
    (within : ∀ j ∈ l, first + j < 4) :
    storeBytes ea (l.map fun j => (a + BitVec.ofNat 32 (first + j), byteAt j)) s =
      .ok (l.foldl (fun u j => busWrite (tgt.plus (first + j)) .byte ((byteAt j).setWidth 32) u) s) := by
  induction l generalizing s with
  | nil => rfl
  | cons j rest ih =>
    rw [List.map_cons, storeBytes_cons (reaches_byte wf reaches (within j (.head _))), List.foldl_cons]
    obtain ⟨m, x, y, e, h⟩ := busWrite_eq (tgt.plus (first + j)) .byte ((byteAt j).setWidth 32) s
    rw [h]
    exact ih (s := { s with mem := m, iStat := x, iMask := y, events := e }) wf ((reaches_congr rfl rfl ..).2 reaches)
      fun k hk => within k (.tail _ hk)

/-! ### A byte write to each kind of target -/

theorem setWidth_byte (b : Byte) : (b.setWidth 32).setWidth 8 = b := by simp

theorem busWrite_storage_byte (loc : Nat) (b : Byte) (s : State) :
    busWrite (.storage loc) .byte (b.setWidth 32) s = { s with mem := s.mem.write loc b } :=
  congrArg (fun c => { s with mem := s.mem.write loc c }) (setWidth_byte b)

theorem busWrite_interrupts_byte (k : Nat) (b : Byte) (s : State) :
    busWrite (.interrupts k) .byte (b.setWidth 32) s = writeInterruptByte s k b := by
  rw [(busWrite_interrupts_byte_half k (b.setWidth 32) s).1, ← byteOf_eq_shift, Nat.mul_zero, BitVec.ushiftRight_zero,
    setWidth_byte]

theorem busWrite_device_byte (d : Device) (p : Nat) (b : Byte) (s : State) :
    busWrite (.device d p) .byte (b.setWidth 32) s = s.record (.deviceWrite d p 1 (b.setWidth 32)) := by
  have masked : b.setWidth 32 &&& fieldMask 0 (8 * 1) = b.setWidth 32 := by
    refine BitVec.eq_of_getLsbD_eq fun i hi => ?_
    rw [BitVec.getLsbD_and, getLsbD_fieldMask _ _ _ (by omega), BitVec.getLsbD_setWidth]
    grind
  exact congrArg (fun v => s.record (.deviceWrite d p 1 v)) masked

section
variable (first count : Nat) (byteAt : Nat → Byte) (s : State)

/-- Byte stores to storage change the listed bytes and nothing else. -/
theorem bytesWritten_storage (loc : Nat) (wf : s.mem.wf) : ∃ m : Memory, m.wf
    ∧ bytesWritten (.storage loc) first count byteAt s = { s with mem := m }
    ∧ ∀ a, m.read a = if loc + first ≤ a ∧ a < loc + first + count then byteAt (a - loc - first) else s.mem.read a := by
  induction count with
  | zero => exact ⟨s.mem, wf, rfl, fun a => (if_neg (by omega)).symm⟩
  | succ n ih =>
    obtain ⟨m, hm, eq, bytes⟩ := ih
    refine ⟨m.write (loc + (first + n)) (byteAt n), Memory.wf_write m _ _ hm, ?_, fun a => ?_⟩
    · rw [bytesWritten_succ, eq]
      exact busWrite_storage_byte ..
    · rw [Memory.read_write m _ a _ hm, bytes a]
      by_cases last : a = loc + (first + n)
      · rw [if_pos last, if_pos (by omega), show a - loc - first = n by omega]
      · rw [if_neg last]
        exact if_congr (by omega) rfl rfl

theorem bytesWritten_rom (loc : Nat) : bytesWritten (.rom loc) first count byteAt s = s := by
  induction count with
  | zero => rfl
  | succ n ih => rw [bytesWritten_succ, ih]; rfl

theorem bytesWritten_interrupts (k : Nat) : bytesWritten (.interrupts k) first count byteAt s =
    (List.range count).foldl (fun u j => writeInterruptByte u (k + first + j) (byteAt j)) s := by
  simp only [bytesWritten, Target.plus, busWrite_interrupts_byte, Nat.add_assoc]

theorem bytesWritten_device (d : Device) (p : Nat) : bytesWritten (.device d p) first count byteAt s =
    { s with
      events := s.events ++
        (List.range count).map fun j => .deviceWrite d (p + first + j) 1 ((byteAt j).setWidth 32) } := by
  induction count with
  | zero => exact congrArg (fun e => { s with events := e }) (List.append_nil s.events).symm
  | succ n ih =>
    rw [bytesWritten_succ, ih, List.range_succ, List.map_append, ← List.append_assoc, Target.plus, busWrite_device_byte,
      ← Nat.add_assoc]
    rfl

/-- On every kind of target the byte stores are those of the statements. -/
theorem storesBytes_bytesWritten (tgt : Target) (wf : s.mem.wf) :
    StoresBytes tgt first count byteAt s (bytesWritten tgt first count byteAt s) := by
  cases tgt with
  | storage loc =>
    obtain ⟨m, -, eq, bytes⟩ := bytesWritten_storage first count byteAt s loc wf
    rw [eq]
    exact ⟨bytes, ⟨rfl, rfl, rfl⟩, ⟨rfl, rfl⟩, ⟨rfl, rfl, rfl, rfl, rfl, rfl, rfl⟩, ⟨rfl, rfl⟩, fun _ => rfl,
      ⟨rfl, rfl⟩, ⟨rfl, rfl, rfl, rfl⟩⟩
  | rom loc => exact bytesWritten_rom first count byteAt s loc
  | interrupts k => exact bytesWritten_interrupts first count byteAt s k
  | device d p =>
    rw [bytesWritten_device]
    exact ⟨rfl, rfl, onlyAgents_events s _ s.draws⟩

end

section
variable {w : Word} {i : Instr} {s : State} {ea a : Word} {tgt : Target} {first count : Nat} {byteAt : Nat → Byte}
  (hd : decode w = .instr i) (he : exec i s = storePartial ea (byteWrites a first count byteAt) s)
  (claims : ∀ c ∈ s.ioClaims, c.wf = true) (within : first + count ≤ 4)
include hd he claims within

theorem runs_storePartial (wf : s.mem.wf) (reaches : Reaches s a .word tgt) :
    Runs w i s (StoresBytes tgt first count byteAt s) := by
  have stored := storeBytes_map (ea := ea) claims reaches first byteAt (List.range count)
    fun j hj => by have := List.mem_range.1 hj; omega
  refine ⟨hd, _, ?_, storesBytes_bytesWritten first count byteAt s tgt wf⟩
  rw [he, storePartial, byteWrites, stored]
  rfl

/-- The checks of the first byte are those of the word, so it stops the whole store; its own address is reported. -/
theorem stopsAs_storePartial (nonempty : 0 < count) (aligned : a.toNat % 4 = 0) :
    StopsAs (.adES (a + BitVec.ofNat 32 first)) a .word w i s := by
  obtain ⟨n, rfl⟩ : ∃ n, count = n + 1 := ⟨count - 1, by omega⟩
  have permitted := permitted_byte_iff (s := s) aligned (show first < 4 by omega)
  obtain ⟨rest, split⟩ := byteWrites_succ a first n byteAt
  refine ⟨fun forbidden => ⟨hd, ?_⟩, fun ⟨allowed, isolated⟩ => ⟨hd, ?_⟩, fun ⟨allowed, shared, unmapped⟩ => ⟨hd, ?_⟩⟩
  · rw [he, storePartial, split, storeBytes, checkAccess_of_forbidden (mt permitted.1 forbidden)]
    rfl
  · rw [he, storePartial, storeBytes_isolated isolated fun c hc => ?_]
    obtain ⟨j, hj, rfl⟩ := List.mem_map.1 hc
    have := List.mem_range.1 hj
    exact (permitted_byte_iff aligned (by omega)).2 allowed
  · have unmapped' : route s.ioClaims (a + BitVec.ofNat 32 first) = none := by
      rw [route_add claims (by omega), unmapped]
      rfl
    rw [he, storePartial, split, storeBytes, checkAccess_of_unmapped (permitted.2 allowed) shared unmapped']
    rfl

end

theorem alignedWord_mod_four (ea : Word) : (alignedWord ea).toNat % 4 = 0 := by
  rw [toNat_alignedWord]; omega

/-- The aligned word and the byte offset make the address again. -/
theorem alignedWord_add_byteOffset (ea : Word) : alignedWord ea + BitVec.ofNat 32 (byteOffset ea) = ea := by
  refine BitVec.eq_of_toNat_eq ?_
  have within : (alignedWord ea).toNat % 4 + byteOffset ea < 4 := by
    rw [alignedWord_mod_four, Nat.zero_add]
    exact byteOffset_lt ea
  rw [toNat_add_within within, toNat_alignedWord, byteOffset]
  omega

theorem exec_swl (rt rs : RegIdx) (imm16 : BitVec 16) (s : State) : exec (.swl rt rs imm16) s =
    storePartial (s.ea rs imm16) (byteWrites (alignedWord (s.ea rs imm16)) 0 (byteOffset (s.ea rs imm16) + 1)
      fun j => byteOf (s.x rt) (3 - byteOffset (s.ea rs imm16) + j)) s :=
  congrArg (storePartial _ · s) (swlBytes_eq ..)

theorem exec_swr (rt rs : RegIdx) (imm16 : BitVec 16) (s : State) : exec (.swr rt rs imm16) s =
    storePartial (s.ea rs imm16) (byteWrites (alignedWord (s.ea rs imm16)) (byteOffset (s.ea rs imm16))
      (4 - byteOffset (s.ea rs imm16)) fun j => byteOf (s.x rt) j) s :=
  congrArg (storePartial _ · s) (swrBytes_eq ..)

/-- Settles O27: SWL stores from byte 0 of the aligned word, SWR from the addressed byte to its end. -/
theorem unalignedStoreResults : Obligations.UnalignedStoreResults := by
  unfold Obligations.UnalignedStoreResults
  intro rt rs imm16 s tgt wf claims reaches
  have offset := byteOffset_lt (s.ea rs imm16)
  refine ⟨runs_storePartial ?_ (exec_swl ..) claims (by omega) wf reaches,
    runs_storePartial ?_ (exec_swr ..) claims (by omega) wf reaches⟩
  all_goals simp only [decode, fields_iWord]

/-- Settles O28: SB, SH and SW stop as a store does; SWL and SWR report their first byte, SWL the aligned address (log 8)
and SWR the effective one. -/
theorem storeFaultsAndIsolation : Obligations.StoreFaultsAndIsolation := by
  unfold Obligations.StoreFaultsAndIsolation
  intro rt rs imm16 s
  have offset := byteOffset_lt (s.ea rs imm16)
  have aligned := alignedWord_mod_four (s.ea rs imm16)
  simp only [List.forall_mem_cons, List.not_mem_nil, false_implies, implies_true, and_true]
  refine ⟨⟨stopsAs_storeWord ?_ rfl, stopsAs_storeWord ?_ rfl, stopsAs_storeWord ?_ rfl⟩, fun claims =>
    ⟨⟨_, .inr ?_, stopsAs_storePartial ?_ (exec_swl ..) claims (by omega) (by omega) aligned⟩, ?_⟩⟩
  · simp only [decode, fields_iWord]
  · simp only [decode, fields_iWord]
  · simp only [decode, fields_iWord]
  · exact BitVec.add_zero _
  · simp only [decode, fields_iWord]
  · have swr := stopsAs_storePartial (w := iWord 0x2E#6 rs rt imm16) (by simp only [decode, fields_iWord])
      (exec_swr rt rs imm16 s) claims (by omega) (by omega) aligned
    rwa [alignedWord_add_byteOffset] at swr

end Sys2Proof.Machine

/-! System calls and coprocessors (44_system_cop.md). Where the usability check passes, `withCop` is its action, and
that is a move, a `withLoad` or a store of which the rules above tell the rest. -/

namespace Sys2Proof.Machine

/-- Settles O31: the code field is no operand of the meaning. -/
theorem systemCallAndBreakpoint : Obligations.SystemCallAndBreakpoint := by
  unfold Obligations.SystemCallAndBreakpoint
  intro code20 s
  refine ⟨⟨?_, rfl⟩, ⟨?_, rfl⟩⟩
  all_goals simp only [decode_codeWord, decodeSpecial, fields_codeWord]

/-! ### Coprocessor 0 -/

/-- Settles O32: past the check each move is one write of a general register or of CP0. -/
theorem cop0Moves : Obligations.Cop0Moves := by
  unfold Obligations.Cop0Moves
  intro rt rd low low6 s usable
  obtain ⟨mfc0, cfc0, mtc0, ctc0⟩ := decode_cop0_moves rt rd low low6
  exact ⟨⟨mfc0, _, withCop_zero_of_usable usable _, onlyGprs_writeReg ..⟩,
    ⟨cfc0, _, withCop_zero_of_usable usable _, onlyGprs_writeReg ..⟩,
    ⟨mtc0, _, withCop_zero_of_usable usable _, onlyCp0_writeCp0 ..⟩,
    ⟨ctc0, _, withCop_zero_of_usable usable _, onlyCp0_writeCp0 ..⟩⟩

/-- Settles O33: past the check RFE is one write of SR, whose bits are those of the popped mode stack. -/
theorem returnFromException_spec : Obligations.ReturnFromException := by
  unfold Obligations.ReturnFromException
  intro ignored s usable
  obtain ⟨⟨sr, others⟩, rest⟩ := onlyCp0_writeCp0 s 12#5 (popModeStack s.sr)
  refine ⟨decode_rfe ignored, _, withCop_zero_of_usable usable _, ⟨fun i => ?_, others⟩, rest⟩
  exact (congrArg (·.getLsbD i) sr).trans (getLsbD_popModeStack s.sr i)

section
variable {rt rs : RegIdx} {imm16 : BitVec 16} {s : State}

theorem exec_lwc0 (usable : Cop0Usable s) : exec (.lwc0 rt rs imm16) s =
    withLoad (s.ea rs imm16) (s.ea rs imm16) .word s fun v t => t.writeCp0 rt v := withCop_zero_of_usable usable _

theorem exec_swc0 (usable : Cop0Usable s) : exec (.swc0 rt rs imm16) s =
    storeWord (s.ea rs imm16) .word (s.cp0Reg rt) s := withCop_zero_of_usable usable _

theorem exec_lwc2 (usable : srCu2 s.sr = true) : exec (.lwc2 rt rs imm16) s =
    withLoad (s.ea rs imm16) (s.ea rs imm16) .word s fun v t => cop2WriteData rt v t := withCop_two_of_usable usable _

theorem exec_swc2 (usable : srCu2 s.sr = true) : exec (.swc2 rt rs imm16) s = storeCop2 rt (s.ea rs imm16) s :=
  withCop_two_of_usable usable _

end

/-- Settles O34: past the check LWC0 is a load with an immediate write of CP0, and SWC0 a store of CP0. -/
theorem cop0LoadStore : Obligations.Cop0LoadStore := by
  unfold Obligations.Cop0LoadStore
  intro rt rs imm16 s tgt usable reaches
  refine ⟨⟨?_, _, (exec_lwc0 usable).trans (withLoad_of_reaches reaches ..), onlyCp0_writeCp0 ..⟩,
    runs_storeWord ?_ (exec_swc0 usable) reaches⟩
  all_goals simp only [decode, fields_iWord]

/-! ### Coprocessor 2 (R570) -/

/-- Settles O35: past the check each is one recorded operation, and the moves from coprocessor 2 write the answer. -/
theorem cop2MovesAndCommand : Obligations.Cop2MovesAndCommand := by
  unfold Obligations.Cop2MovesAndCommand
  intro rt rd low low6 imm25 s usable
  obtain ⟨mfc2, cfc2, mtc2, ctc2⟩ := decode_cop2_moves rt rd low low6
  exact ⟨⟨mfc2, _, withCop_two_of_usable usable _, onlyGprs_writeReg ..⟩,
    ⟨cfc2, _, withCop_two_of_usable usable _, onlyGprs_writeReg ..⟩,
    ⟨mtc2, withCop_two_of_usable usable _⟩, ⟨ctc2, withCop_two_of_usable usable _⟩,
    ⟨decode_cop2_command imm25, withCop_two_of_usable usable _⟩⟩

section
variable {s : State} {addr : Word} (rt : RegIdx)

theorem storeCop2_of_reaches {tgt : Target} (h : Reaches s addr .word tgt) : storeCop2 rt addr s =
    .next (busWrite tgt .word (Config.cop2Answer s.draws) (afterCop2Read (.cop2ReadData rt) s)) := by
  rw [storeCop2, checkAccess_of_reaches h]
  rfl

theorem storeCop2_of_forbidden (h : ¬ Permitted s addr .word) :
    storeCop2 rt addr s = .next (enterException (.adES addr) s) := by
  rw [storeCop2, checkAccess_of_forbidden h]
  rfl

/-- The isolated store has passed its checks, so it reads coprocessor 2 (log 9). -/
theorem storeCop2_of_isolated (h : Permitted s addr .word) (isolated : srIsC s.sr = true) :
    storeCop2 rt addr s = .next (afterCop2Read (.cop2ReadData rt) s) := by
  rw [storeCop2, checkAccess_of_isolated h isolated]
  rfl

theorem storeCop2_of_unmapped (h : Permitted s addr .word) (shared : srIsC s.sr = false)
    (unmapped : route s.ioClaims addr = none) : storeCop2 rt addr s = .next (enterException .dbe s) := by
  rw [storeCop2, checkAccess_of_unmapped h shared unmapped]
  rfl

end

/-- Settles O36: LWC2 sends the word of the bus read; SWC2 asks for the answer and then writes the bus. -/
theorem cop2LoadStore : Obligations.Cop2LoadStore := by
  unfold Obligations.Cop2LoadStore
  intro rt rs imm16 s tgt usable reaches
  refine ⟨⟨?_, (exec_lwc2 usable).trans (withLoad_of_reaches reaches ..)⟩,
    ⟨?_, _, (exec_swc2 usable).trans (storeCop2_of_reaches rt reaches), rfl, fun loc storage wf => ?_⟩⟩
  · simp only [decode, fields_iWord]
  · simp only [decode, fields_iWord]
  · rw [storage]
    exact onlyMemory_busWrite_storage (s := afterCop2Read (.cop2ReadData rt) s) wf loc .word _

/-- Settles O37: past the check LWC0 and LWC2 stop as loads and SWC0 as a store; SWC2 stops as a store but for the
isolated one, which has read coprocessor 2 (log 9). -/
theorem copLoadStoreFaultsAndIsolation : Obligations.CopLoadStoreFaultsAndIsolation := by
  unfold Obligations.CopLoadStoreFaultsAndIsolation
  intro rt rs imm16 s
  refine ⟨fun usable => ⟨stopsAs_withLoad ?_ (exec_lwc0 usable), stopsAs_storeWord ?_ (exec_swc0 usable)⟩,
    fun usable => ⟨stopsAs_withLoad ?_ (exec_lwc2 usable),
      fun forbidden => ⟨?_, (exec_swc2 usable).trans (storeCop2_of_forbidden rt forbidden)⟩,
      fun ⟨permitted, isolated⟩ => ⟨?_, (exec_swc2 usable).trans (storeCop2_of_isolated rt permitted isolated)⟩,
      fun ⟨permitted, shared, unmapped⟩ =>
        ⟨?_, (exec_swc2 usable).trans (storeCop2_of_unmapped rt permitted shared unmapped)⟩⟩⟩
  all_goals simp only [decode, fields_iWord]

end Sys2Proof.Machine
